-- ==== Sys2Proof/Word.lean ====
section
/-! DEFINITION. The widths of the CRC-8 generator's values (rules R6, R7, R10, R80). Every value is unsigned (R7). -/

namespace Sys2Proof

/-- An 8-bit value: the register, a data byte, the result (R6: data width per command 8 bits). -/
abbrev Byte := BitVec 8

/-- The 2-bit command code on the port `op` (R29, R80). -/
abbrev Op := BitVec 2

/-- A 10-bit command word `cmd[9:0] = {op, din}` (R80). -/
abbrev Cmd := BitVec 10

/-- A message: a finite list of bytes, the first byte first (R10). -/
abbrev Message := List Byte

end Sys2Proof
end

