-- ==== Sys2Proof/Config.lean ====
section
/-! DEFINITION. The constants of the CRC-8 generator. "The five CRC parameters of rule R1 are fixed constants of the hardware" (R2), named here as R27 lists them. Nothing is left open (R6), so no constant here is without a value. -/

namespace Sys2Proof

/-- `POLY`: x^8 + x^2 + x + 1 without its x^8 term (R6, R27). -/
def Config.poly : Byte := 0x07

/-- `INIT`: what `crc` holds before the first byte of a message (R6, R27). -/
def Config.init : Byte := 0x00

/-- `REFIN`: whether each input byte is bit-reversed before use. It is not (R6, R27). -/
def Config.refin : Bool := false

/-- `REFOUT`: whether the final register is bit-reversed before output. It is not (R6, R27). -/
def Config.refout : Bool := false

/-- `XOROUT`: the constant XORed into the register to form the result (R6, R27). -/
def Config.xorout : Byte := 0x00

/-- The default 7-bit peripheral address of the host's frames (20_memory.md section 4, glossary). -/
def Config.defaultAddr : Nat := 0x21

/-- The largest peripheral address the host's frames are defined for (D19). -/
def Config.maxAddr : Nat := 0x7F

end Sys2Proof
end

