-- ==== Sys2Proof/Syntax.lean ====
section
/-! DEFINITION. The command set CRC8-CMD, version 1: one constructor per row of spec/opcode_table.json (R81, R85). NOP and INIT have no operand: they ignore `din`, and "a model must not give the ignored bits a meaning" (R82, R84). -/

namespace Sys2Proof

/-- The four commands of R81. `RESET` is no command word: it is the input `rst` (R83, R86). -/
inductive Instr where
  /-- NOP, op 00: hold (R47). -/
  | nop
  /-- INIT, op 01: begin a new message (R48). -/
  | init
  /-- UPDATE `din`, op 10: absorb one byte (R49). -/
  | update (din : Byte)
  /-- START `din`, op 11: begin a new message with its first byte (R50). -/
  | start (din : Byte)
deriving DecidableEq, Repr

end Sys2Proof
end

