-- ==== Sys2Proof/WellFormed.lean ====
section
/-! DEFINITION. What is well formed. Every command is (R84: no word is reserved or illegal). The checks that can refuse are on numbers that arrive from outside: a command word, an assembler's byte literal and a peripheral address. -/

namespace Sys2Proof

/-- Every command is well formed: each operand has its exact width, and no value of it is reserved (R82, R84). -/
def Instr.wellFormed : Instr → Bool
  | .nop => true
  | .init => true
  | .update _ => true
  | .start _ => true

/-- A number is a command word when it fits the ten bits of `cmd[9:0]` (R80). -/
def isCommandWord (w : Nat) : Bool := decide (w < 2 ^ 10)

/-- A literal is a byte when it lies in 0 to 255 (R86). -/
def isByteLiteral (n : Nat) : Bool := decide (n ≤ 255)

/-- A number is a peripheral address the frames are defined for: seven bits (R37's section, D19). -/
def isPeripheralAddr (addr : Nat) : Bool := decide (addr ≤ Config.maxAddr)

end Sys2Proof
end

