-- ==== Sys2Proof/Decode.lean ====
section
/-! DEFINITION. The command word: its fields, the decoder and the encoder (R80 to R85). The decoder is total on the ten bits, because all 1024 words are legal (R84). A number that does not fit ten bits is no command word and is refused by name. -/

namespace Sys2Proof

/-- `op = cmd[9:8]` (R80). -/
def opOf (w : Cmd) : Op := w.extractLsb' 8 2

/-- `din = cmd[7:0]` (R80). -/
def dinOf (w : Cmd) : Byte := w.extractLsb' 0 8

/-- `cmd = {op, din} = (op << 8) | din` (R80). -/
def cmdOf (op : Op) (din : Byte) : Cmd := (op.setWidth 10 <<< 8) ||| din.setWidth 10

/-- The opcode map: "a decoder needs only `cmd[9:8]`" (R81). -/
def decode (w : Cmd) : Instr :=
  match opOf w with
  | 0b00#2 => .nop
  | 0b01#2 => .init
  | 0b10#2 => .update (dinOf w)
  | 0b11#2 => .start (dinOf w)

/-- Why a number is not read as a command. -/
inductive DecodeError where
  /-- The number has a bit above bit 9, so it is not a 10-bit command word (R80; DEDUCED,
  log entry 11). Safe: no port can carry it. -/
  | notTenBits
deriving DecidableEq, Repr

/-- Reads a number as a command word. -/
def decodeWord (w : Nat) : Except DecodeError Instr :=
  if isCommandWord w then .ok (decode (BitVec.ofNat 10 w)) else .error .notTenBits

/-- The decoder on a word numbered as spec/opcode_table.json numbers it. A row has 10 bits, so the
number of bits in whole bytes does not matter: a bit above bit 9 is refused. -/
def decodeTableWord (_nbits w : Nat) : Option Instr :=
  match decodeWord w with
  | .ok i => some i
  | .error _ => none

/-- The word of a command, from the patterns of R81. For NOP and INIT "the assembler writes
`din = 0x00`" (R86); DEDUCED, log entry 9. -/
def encode : Instr → Cmd
  | .nop => cmdOf 0b00#2 0x00#8
  | .init => cmdOf 0b01#2 0x00#8
  | .update din => cmdOf 0b10#2 din
  | .start din => cmdOf 0b11#2 din

end Sys2Proof
end

