-- ==== Sys2Proof/Machine/Operands.lean ====
section
/-! DEFINITION. The one operand form: the data byte `din` (R82). -/

namespace Sys2Proof.Machine

/-- Bit reversal, where a reflection parameter asks for it (glossary, "reflect-in" and "reflect-out";
DEDUCED, log entry 8). -/
def reflectIf (reflect : Bool) (v : Byte) : Byte :=
  if reflect then v.reverse else v

/-- The byte UPDATE and START absorb: `din` "as is: not extended, scaled, shifted or reflected" (R82),
because `REFIN` is false (R31). -/
def operandByte (din : Byte) : Byte := reflectIf Config.refin din

end Sys2Proof.Machine
end

