-- ==== Sys2Proof/Machine/State.lean ====
section
/-! DEFINITION. The state of the CRC-8 generator and of the host that drives it. The block's own state is the one register `crc` (R20). The inputs of an edge are "parameters of each step, not state" (10_state.md section 5), and a step of this model takes no argument, so what the host will do stands in the state as data, beside the record of what it has seen. -/

namespace Sys2Proof.Machine

/-- The reasons a run is not to be trusted. `step` never stops with one: "a model's step for this block
has no hardware fault outcome" (R60). -/
inductive Fault where
  /-- R64: the host observed `crc_out` or `zero` while `crc` was `⊥`. Raised by `observeCrcOut` and
  `observeZero`, and recorded in `State.fault` by the step that performs the sampling. Safe: no value is
  given for a byte the hardware does not fix (DEDUCED, log entry 3). -/
  | undefinedStateRead
deriving DecidableEq, Repr

/-- What the model declines to do. -/
inductive Refusal where
  /-- An instruction without a meaning. None is left: no arm of `exec` answers with it. Safe. -/
  | notModelled (mnemonic : String)
  /-- D19, I6: a host frame for a peripheral address above 0x7F. Raised by the frames of
  Machine/Frames.lean, never by `step`. Safe: the frames are not defined for it. -/
  | peripheralAddressTooLarge
deriving DecidableEq, Repr

/-- The two output ports (R29). -/
inductive OutPort where
  | crcOut
  | zero
deriving DecidableEq, Repr

/-- One interaction of the host with the block (R79). -/
inductive HostEvent where
  /-- One rising edge of `clk` with these values on the input ports `rst`, `op`, `din` (R29). -/
  | edge (rst : Bool) (op : Op) (din : Byte)
  /-- The host samples an output between two edges: it sees what the edges before have left (R74, R79;
  DESIGN CHOICE, log entry 6). -/
  | sample (port : OutPort)
  /-- Power is lost and comes back: "a model treats a power cycle as a new power-on" (R69, I2). -/
  | powerCycle
deriving DecidableEq, Repr

/-- What one sampling showed: the port's value, or `none` where it was `⊥` (R23, R24). -/
inductive Sample where
  | crcOut (value : Option Byte)
  | zero (value : Option Bool)
deriving DecidableEq, Repr

/-- The machine. `crc` is the block's whole architectural state (R20); the other fields are the model's
own and hold the host (DESIGN CHOICE, log entries 1, 3 and 6). -/
structure State where
  /-- The CRC register: a byte, or `⊥` as `none` (R20, R22). -/
  crc : Option Byte
  /-- What the host does next, oldest first (R26, R29, R79). -/
  pending : List HostEvent
  /-- What the host has sampled, oldest first (R79). -/
  samples : List Sample
  /-- The record of any `UndefinedStateRead`, never cleared (R64, R79). -/
  fault : Option Fault
deriving DecidableEq, Repr

/-- From power-on until the first reset, INIT or START, `crc` is `⊥` (R71). -/
def State.powerOn : State :=
  { crc := none, pending := [], samples := [], fault := none }

/-- Right after an edge with `rst = 1`: `crc` holds 0x00 (R70). The host has nothing pending and has
seen nothing (DESIGN CHOICE, log entry 4). -/
def State.reset : State :=
  { crc := some 0x00, pending := [], samples := [], fault := none }

end Sys2Proof.Machine
end

