-- ==== Sys2Proof/Machine/Ops.lean ====
section
/-! DEFINITION. The named operations on the CRC register: the bit step, the byte step, the message function, writing the register, reset and power-on, the output `crc_out`, and taking the model fault. -/

namespace Sys2Proof.Machine

/-- One iteration of R40's loop (PRESUMED by the spec itself as GK1, log entry 7). The test of bit 7 is
made before the shift, which loses that bit (R8). -/
def bitStep (v : Byte) : Byte :=
  if v.msb then (v <<< 1) ^^^ Config.poly else v <<< 1

/-- `n` iterations of R40's loop. -/
def bitSteps : Nat → Byte → Byte
  | 0, v => v
  | n + 1, v => bitSteps n (bitStep v)

/-- `step8(c, b)`: absorbs one byte into a register value (R40). -/
def step8 (c b : Byte) : Byte := bitSteps 8 (c ^^^ b)

/-- The register after the byte `din` has been absorbed into the value `c`. -/
def absorb (c din : Byte) : Byte := step8 c (operandByte din)

/-- The register after a message has been absorbed, byte by byte in order, into the value `c` (R32, R38). -/
def absorbAll (c : Byte) (M : Message) : Byte := M.foldl absorb c

/-- The result of a message whose register value is `c`: `c ^ XOROUT`, not bit-reversed (R43). -/
def resultOf (c : Byte) : Byte := reflectIf Config.refout c ^^^ Config.xorout

/-- The message function (R44). -/
def crc8 (M : Message) : Byte := resultOf (absorbAll Config.init M)

/-- `crc <- v` (R9). -/
def State.writeCrc (s : State) (v : Option Byte) : State := { s with crc := v }

/-- The output `crc_out`, a continuous function of the register, `⊥` where the register is (R23). -/
def State.crcOut (s : State) : Option Byte := s.crc.map resultOf

/-- What an edge with `rst = 1` does: `crc <- 0x00`, "the source's initial value `INIT`" (R70). -/
def State.applyReset (s : State) : State := s.writeCrc (some Config.init)

/-- What a power cycle does: `crc` is `⊥` again (R69, R71). -/
def State.losePower (s : State) : State := s.writeCrc none

/-- Records a model fault for good: "the fault is never cleared" (R64), and the first one stays. -/
def State.recordFault (s : State) (f : Fault) : State :=
  { s with fault := some (s.fault.getD f) }

/-- Appends what the host has seen to its record. -/
def State.addSample (s : State) (x : Sample) : State := { s with samples := s.samples ++ [x] }

/-- What the host has pending, from now on. -/
def State.setPending (s : State) (es : List HostEvent) : State := { s with pending := es }

/-- What an edge sees for which the host presents nothing: `rst = 0` and NOP, since "holding
`op = 00` (NOP) means no command" (R29; DESIGN CHOICE, log entry 2). -/
def idleEdge : HostEvent := .edge false 0b00 0x00

/-- The host's next interaction. -/
def State.nextEvent (s : State) : HostEvent := s.pending.headD idleEdge

/-- The state with that interaction taken off what is pending. -/
def State.dropEvent (s : State) : State := s.setPending s.pending.tail

end Sys2Proof.Machine
end

