-- ==== Sys2Proof/Machine/Commands.lean ====
section
/-! DEFINITION. The meaning of each command at an edge with `rst = 0`, one definition a row of the opcode table (R47 to R50). Each completes at its own edge and raises nothing (R28, R60). `zero` follows `crc` (R24). -/

namespace Sys2Proof.Machine

/-- NOP: `crc <- crc`; a `⊥` stays `⊥` (R47). -/
def execNop (s : State) : Host.Outcome State Fault Refusal :=
  .next (s.writeCrc s.crc)

/-- INIT: `crc <- INIT`, without reading `crc` (R48). -/
def execInit (s : State) : Host.Outcome State Fault Refusal :=
  .next (s.writeCrc (some Config.init))

/-- UPDATE: `crc <- step8(crc, din)`; from `⊥`, `crc <- ⊥` (R49). -/
def execUpdate (din : Byte) (s : State) : Host.Outcome State Fault Refusal :=
  .next (s.writeCrc (s.crc.map fun c => absorb c din))

/-- START: `crc <- step8(INIT, din)`, without reading `crc` (R50). -/
def execStart (din : Byte) (s : State) : Host.Outcome State Fault Refusal :=
  .next (s.writeCrc (some (absorb Config.init din)))

end Sys2Proof.Machine
end

