-- ==== Sys2Proof/Machine/Flags.lean ====
section
/-! DEFINITION. The one status output, `zero`. "No command writes `zero` directly; it is not a flag that is set or cleared" (R24): it follows `crc`. -/

namespace Sys2Proof.Machine

/-- `zero` for a result byte: 1 if it is 0x00, else 0 (R24). -/
def zeroOf (out : Byte) : Bool := out == 0x00

/-- The output `zero`, `⊥` where `crc` is (R24). -/
def State.zero (s : State) : Option Bool := s.crcOut.map zeroOf

end Sys2Proof.Machine
end

