-- ==== Sys2Proof/Machine/Observe.lean ====
section
/-! DEFINITION. Observing the outputs (R23, R24, R64, R79). Sampling has no side effect on the block (R34). Observing `⊥` is the model fault `UndefinedStateRead`, which is recorded and never cleared (R64). -/

namespace Sys2Proof.Machine

/-- Observing an output: its value, or the model fault where it is `⊥` (R64). -/
def observed {α : Type} (out : Option α) : Except Fault α :=
  match out with
  | some v => .ok v
  | none => .error .undefinedStateRead

/-- The host observes `crc_out` (R64; 95_test_vectors.md section 2.4). -/
def observeCrcOut (s : State) : Except Fault Byte := observed s.crcOut

/-- The host observes `zero` (R64; 95_test_vectors.md section 2.4). -/
def observeZero (s : State) : Except Fault Bool := observed s.zero

/-- Records the fault of an observation, if it raised one. -/
def State.recordIfRaised {α : Type} (s : State) (r : Except Fault α) : State :=
  match r with
  | .ok _ => s
  | .error f => s.recordFault f

/-- The host samples a port: what it shows goes into the host's record, the fault it raises, if any, into
the run's record, and the block stays as it is (R34, R64). -/
def takeSample (port : OutPort) (s : State) : State :=
  match port with
  | .crcOut => (s.addSample (.crcOut s.crcOut)).recordIfRaised (observeCrcOut s)
  | .zero => (s.addSample (.zero s.zero)).recordIfRaised (observeZero s)

/-- What is observed of a run at its end (R79). -/
structure Observation where
  /-- `crc_out` after the last edge, `none` for `⊥`. -/
  crcOut : Option Byte
  /-- `zero` after the last edge, `none` for `⊥`. -/
  zero : Option Bool
  /-- The record of any `UndefinedStateRead`. -/
  fault : Option Fault
deriving DecidableEq, Repr

/-- The end of a run: the observation is `(crc_out, zero)` with the record of any `UndefinedStateRead`
(R79). Taking it observes both outputs, so in `⊥` it raises that fault itself (R64;
DEDUCED, log entry 17). -/
def State.observation (s : State) : Observation :=
  { crcOut := s.crcOut
    zero := s.zero
    fault := ((s.recordIfRaised (observeCrcOut s)).recordIfRaised (observeZero s)).fault }

end Sys2Proof.Machine
end

