-- ==== Sys2Proof/Machine/Events.lean ====
section
/-! DEFINITION. One interaction of the host with the block: a rising edge (R51, R65), a sampling of an output (R64), a power cycle (R69). -/

namespace Sys2Proof.Machine

/-- One rising edge: "if `rst = 1`, reset takes effect and the command word is ignored; otherwise, the
command in `op` takes effect" (R65, R51). -/
def clockEdge (rst : Bool) (op : Op) (din : Byte) (s : State) : Host.Outcome State Fault Refusal :=
  if rst then .next s.applyReset else exec (decode (cmdOf op din)) s

/-- One interaction of R79's table. -/
def performEvent (e : HostEvent) (s : State) : Host.Outcome State Fault Refusal :=
  match e with
  | .edge rst op din => clockEdge rst op din s
  | .sample port => .next (takeSample port s)
  | .powerCycle => .next s.losePower

/-- The edge with `rst = 0` at which the host presents a command word on `op` and `din` (R80). -/
def wordEdge (w : Cmd) : HostEvent := .edge false (opOf w) (dinOf w)

/-- Puts a command word first among what the host does next. -/
def presentFirst (w : Cmd) (s : State) : State := s.setPending (wordEdge w :: s.pending)

end Sys2Proof.Machine
end

