-- ==== Sys2Proof/Machine/Step.lean ====
section
/-! DEFINITION. The step: the host's next interaction is taken off what is pending and performed. The block has no program counter and fetches nothing (R26): its commands come from the host, in order (R38). -/

namespace Sys2Proof.Machine

/-- One step of the machine. -/
def step (s : State) : Host.Outcome State Fault Refusal :=
  performEvent s.nextEvent s.dropEvent

/-- The command word `w` presented at the next edge, `rst` low; everything else stays, and what was
pending comes after it (DESIGN CHOICE, log entry 5). -/
def State.withFetchWord (s : State) (_nbits w : Nat) : State :=
  presentFirst (BitVec.ofNat 10 w) s

end Sys2Proof.Machine
end

