-- ==== Sys2Proof/Machine/Program.lean ====
section
/-! DEFINITION. Programs: the command lines of R86, the pseudo-instructions of R87, and what they make the host do. -/

namespace Sys2Proof.Machine

/-- One line of a program (R86) or a pseudo-instruction (R87). -/
inductive AsmLine where
  | nop
  | init
  | update (b : Byte)
  | start (b : Byte)
  | reset
  | crc (bs : Message)
  | check (bs : Message) (c : Byte)
  | wait (n : Nat)
deriving DecidableEq, Repr

/-- The edge of a command at `rst = 0`, its word as the encoder writes it. -/
def commandEdge (i : Instr) : HostEvent := wordEdge (encode i)

/-- The edge of a RESET line: `rst = 1`, "the command word is written as 0x000" (R86). -/
def resetEdge : HostEvent := .edge true (opOf 0x000) (dinOf 0x000)

/-- A message presented to the block: START on its first byte and UPDATE on each other, or INIT for the
empty message (R52, R87). -/
def presentMessage : Message → List HostEvent
  | [] => [commandEdge .init]
  | b :: bs => commandEdge (.start b) :: bs.map fun x => commandEdge (.update x)

/-- The interactions a line stands for: one edge for a command or RESET, the expansion of R87 for a
pseudo-instruction. -/
def AsmLine.events : AsmLine → List HostEvent
  | .nop => [commandEdge .nop]
  | .init => [commandEdge .init]
  | .update b => [commandEdge (.update b)]
  | .start b => [commandEdge (.start b)]
  | .reset => [resetEdge]
  | .crc bs => presentMessage bs
  | .check bs c => presentMessage (bs ++ [c])
  | .wait n => List.replicate n (commandEdge .nop)

/-- The interactions of a program, line by line. -/
def assemble (p : List AsmLine) : List HostEvent := p.flatMap AsmLine.events

/-- A program given to the host, which then presents it edge by edge (DESIGN CHOICE, log entry 4). -/
def State.loadProgram (s : State) (p : List AsmLine) : State := s.setPending (assemble p)

end Sys2Proof.Machine
end

