-- ==== Sys2Proof/Machine/Asm.lean ====
section
/-! DEFINITION. The assembler's text (R86, R87): one line a command, `;` begins a comment, a byte is a hexadecimal literal, a decimal literal or a quoted ASCII character. What R86 leaves to the reader is a DESIGN CHOICE (log entry 10). -/

namespace Sys2Proof.Machine

/-- Why a line is not accepted. All of them are safe: the line makes no events. -/
inductive AsmError where
  /-- The line's first word is none of R86's and R87's. -/
  | unknownMnemonic
  /-- The operands are not those of the mnemonic. -/
  | wrongOperands
  /-- An operand is no number and no quoted character. -/
  | notALiteral
  /-- A number above 255, or a character that is not ASCII, where a byte is wanted (R86). -/
  | notAByte
deriving DecidableEq, Repr

/-- A token of a line. -/
inductive Token where
  | word (cs : List Char)
  | quoted (c : Char)
  | comma
deriving DecidableEq, Repr

/-- The character that quotes an ASCII character. -/
def quoteMark : Char := Char.ofNat 39

/-- White space within a line. -/
def isBlankChar (c : Char) : Bool := c = ' ' || c = '\t' || c = '\r'

/-- The word read so far, if any, as a token. -/
def flushWord (acc : List Char) : List Token := if acc = [] then [] else [.word acc]

/-- The tokens of a line; `acc` is the word being read. A comment ends the line (R86). R86 says both that
`;` begins a comment and that a quoted ASCII character is a byte; a `;` between two quote marks is read as
the quoted character, the byte 0x3B, and any other `;` begins a comment (DESIGN CHOICE, log entry 10). -/
def lexLine (acc : List Char) : List Char → List Token
  | [] => flushWord acc
  | c :: q :: d :: rest =>
    if c = ';' then flushWord acc
    else if c = quoteMark && d = quoteMark then flushWord acc ++ .quoted q :: lexLine [] rest
    else if c = ',' then flushWord acc ++ .comma :: lexLine [] (q :: d :: rest)
    else if isBlankChar c then flushWord acc ++ lexLine [] (q :: d :: rest)
    else lexLine (acc ++ [c]) (q :: d :: rest)
  | c :: rest =>
    if c = ';' then flushWord acc
    else if c = ',' then flushWord acc ++ .comma :: lexLine [] rest
    else if isBlankChar c then flushWord acc ++ lexLine [] rest
    else lexLine (acc ++ [c]) rest

/-- The value of a decimal digit. -/
def decimalDigit (c : Char) : Option Nat :=
  if '0'.toNat ≤ c.toNat && c.toNat ≤ '9'.toNat then some (c.toNat - '0'.toNat) else none

/-- The value of a hexadecimal digit, in either case. -/
def hexDigit (c : Char) : Option Nat :=
  if 'A'.toNat ≤ c.toNat && c.toNat ≤ 'F'.toNat then some (c.toNat - 'A'.toNat + 10)
  else if 'a'.toNat ≤ c.toNat && c.toNat ≤ 'f'.toNat then some (c.toNat - 'a'.toNat + 10)
  else decimalDigit c

/-- The value of decimal digits after the value `n` of those before them. -/
def decimalFrom (n : Nat) : List Char → Option Nat
  | [] => some n
  | c :: cs =>
    match decimalDigit c with
    | some d => decimalFrom (10 * n + d) cs
    | none => none

/-- A number as a word writes it: `0x` and two hexadecimal digits, or decimal digits (R86). -/
def numberOf : List Char → Option Nat
  | [] => none
  | ['0', 'x', h, l] =>
    match hexDigit h, hexDigit l with
    | some a, some b => some (16 * a + b)
    | _, _ => none
  | cs => decimalFrom 0 cs

/-- A `<byte>` of R86: a hexadecimal or decimal literal up to 255, or a quoted ASCII character. -/
def byteOf : Token → Except AsmError Byte
  | .word cs =>
    match numberOf cs with
    | some n => if isByteLiteral n then .ok (BitVec.ofNat 8 n) else .error .notAByte
    | none => .error .notALiteral
  | .quoted c => if c.toNat < 128 then .ok (BitVec.ofNat 8 c.toNat) else .error .notAByte
  | .comma => .error .wrongOperands

/-- Bytes with commas between them. -/
def byteList : List Token → Except AsmError Message
  | [] => .error .wrongOperands
  | [t] => (byteOf t).map fun b => [b]
  | t :: .comma :: rest =>
    match byteOf t, byteList rest with
    | .ok b, .ok bs => .ok (b :: bs)
    | .error e, _ => .error e
    | _, .error e => .error e
  | _ :: _ :: _ => .error .wrongOperands

/-- A mnemonic without operands. -/
def noOperand (line : AsmLine) : List Token → Except AsmError (Option AsmLine)
  | [] => .ok (some line)
  | _ :: _ => .error .wrongOperands

/-- A mnemonic with one byte. -/
def oneByte (line : Byte → AsmLine) : List Token → Except AsmError (Option AsmLine)
  | [t] => (byteOf t).map fun b => some (line b)
  | [] => .error .wrongOperands
  | _ :: _ :: _ => .error .wrongOperands

/-- CRC: any number of bytes, none included (R87). -/
def crcOperands : List Token → Except AsmError (Option AsmLine)
  | [] => .ok (some (.crc []))
  | t :: ts => (byteList (t :: ts)).map fun bs => some (.crc bs)

/-- CHECK: bytes of which the last is the CRC byte (R87). -/
def checkOperands (ts : List Token) : Except AsmError (Option AsmLine) :=
  match byteList ts with
  | .ok bs => .ok (some (.check bs.dropLast (bs.getLastD 0)))
  | .error e => .error e

/-- WAIT: one number (R87). -/
def waitOperand : List Token → Except AsmError (Option AsmLine)
  | [.word cs] =>
    match numberOf cs with
    | some n => .ok (some (.wait n))
    | none => .error .notALiteral
  | _ => .error .wrongOperands

/-- A line from its tokens: `none` for a line with no command on it. -/
def lineOf : List Token → Except AsmError (Option AsmLine)
  | [] => .ok none
  | .word ['N', 'O', 'P'] :: ts => noOperand .nop ts
  | .word ['I', 'N', 'I', 'T'] :: ts => noOperand .init ts
  | .word ['U', 'P', 'D', 'A', 'T', 'E'] :: ts => oneByte .update ts
  | .word ['S', 'T', 'A', 'R', 'T'] :: ts => oneByte .start ts
  | .word ['R', 'E', 'S', 'E', 'T'] :: ts => noOperand .reset ts
  | .word ['C', 'R', 'C'] :: ts => crcOperands ts
  | .word ['C', 'H', 'E', 'C', 'K'] :: ts => checkOperands ts
  | .word ['W', 'A', 'I', 'T'] :: ts => waitOperand ts
  | _ :: _ => .error .unknownMnemonic

/-- A line of text. -/
def parseLine (cs : List Char) : Except AsmError (Option AsmLine) := lineOf (lexLine [] cs)

/-- The lines of a text; `acc` is the line being read. -/
def splitLines (acc : List Char) : List Char → List (List Char)
  | [] => [acc]
  | c :: cs => if c = '\n' then acc :: splitLines [] cs else splitLines (acc ++ [c]) cs

/-- A program from its lines. -/
def parseLines : List (List Char) → Except AsmError (List AsmLine)
  | [] => .ok []
  | l :: ls =>
    match parseLine l, parseLines ls with
    | .ok x, .ok p => .ok (x.toList ++ p)
    | .error e, _ => .error e
    | _, .error e => .error e

/-- A program from its text (R86). -/
def parseProgram (text : List Char) : Except AsmError (List AsmLine) :=
  parseLines (splitLines [] text)

end Sys2Proof.Machine
end

