-- ==== Sys2Proof/Machine/Frames.lean ====
section
/-! DEFINITION. The host's frames and checks (R35 to R37, R62, R77). They are host-side rules: "the block neither checks nor enforces them". They are defined for `addr ≤ 0x7F` and refuse a larger address (D19, I6; DEDUCED, log entry 16). -/

namespace Sys2Proof.Machine

/-- `addr<<1` as a message byte (R35). -/
def writeAddressByte (addr : Nat) : Byte := BitVec.ofNat 8 (addr <<< 1)

/-- `(addr<<1)|1` as a message byte (R36). -/
def readAddressByte (addr : Nat) : Byte := BitVec.ofNat 8 ((addr <<< 1) ||| 1)

/-- A frame for a peripheral address, refused above 0x7F (D19). -/
def forPeripheral {α : Type} (addr : Nat) (x : α) : Except Refusal α :=
  if isPeripheralAddr addr then .ok x else .error .peripheralAddressTooLarge

/-- `value[7:0]`. -/
def lowByte (value : BitVec 16) : Byte := value.extractLsb' 0 8

/-- `value[15:8]`. -/
def highByte (value : BitVec 16) : Byte := value.extractLsb' 8 8

/-- The CRC message of a 16-bit register write: `[addr<<1, reg, value[7:0], value[15:8]]` (R35). -/
def writeMessage16 (addr : Nat) (reg : Byte) (value : BitVec 16) : Except Refusal Message :=
  forPeripheral addr [writeAddressByte addr, reg, lowByte value, highByte value]

/-- The bytes sent after the register index: `[value[7:0], value[15:8], crc8(message)]` (R35, R77). -/
def writeBytes16 (addr : Nat) (reg : Byte) (value : BitVec 16) : Except Refusal Message :=
  (writeMessage16 addr reg value).map fun M => [lowByte value, highByte value, crc8 M]

/-- The CRC message of a 16-bit register read: `[addr<<1, reg, (addr<<1)|1, low, high]` (R36). -/
def readMessage16 (addr : Nat) (reg low high : Byte) : Except Refusal Message :=
  forPeripheral addr [writeAddressByte addr, reg, readAddressByte addr, low, high]

/-- The CRC message of a 32-bit register read, data bytes in received order (R37). -/
def readMessage32 (addr : Nat) (reg d0 d1 d2 d3 : Byte) : Except Refusal Message :=
  forPeripheral addr [writeAddressByte addr, reg, readAddressByte addr, d0, d1, d2, d3]

/-- `low | (high << 8)` (R36). -/
def value16 (low high : Byte) : BitVec 16 := high ++ low

/-- The parameter of I7: how four received bytes make a 32-bit value. -/
inductive ByteOrder where
  /-- The default: `d0 | d1<<8 | d2<<16 | d3<<24` (R37, D18). -/
  | littleEndian
  /-- The other order, which the source does not exclude (N12). -/
  | bigEndian
deriving DecidableEq, Repr

/-- The 32-bit value of the four received data bytes (R37, I7). -/
def value32 (order : ByteOrder) (d0 d1 d2 d3 : Byte) : BitVec 32 :=
  match order with
  | .littleEndian => d3 ++ d2 ++ d1 ++ d0
  | .bigEndian => d0 ++ d1 ++ d2 ++ d3

/-- Why a register read gives no value. -/
inductive HostError where
  /-- R62: the received CRC byte "disagrees with the recomputed value", surfaced immediately, not
  retried. Raised by `readRegister16` and `readRegister32`. -/
  | checksumMismatch
  /-- The framing model refuses the address (D19). -/
  | refused (r : Refusal)
deriving DecidableEq, Repr

/-- A mismatch by comparison: the byte on `crc_out` after the message differs from the received CRC
byte (R62). -/
def mismatchByCompare (crcOut received : Byte) : Bool := crcOut != received

/-- A mismatch by residue: `zero = 0` after the received CRC byte has been absorbed too (R62). -/
def mismatchByZero (zero : Bool) : Bool := !zero

/-- A read's answer: the value if the received CRC byte is that of the frame (R36, R62, R77). -/
def checkedRead {α : Type} (frame : Except Refusal Message) (received : Byte) (value : α) :
    Except HostError α :=
  match frame with
  | .error r => .error (.refused r)
  | .ok M => if mismatchByCompare (crc8 M) received then .error .checksumMismatch else .ok value

/-- `readRegister16(addr, reg)` on the three bytes received, `[low, high, crc]` (R36). -/
def readRegister16 (addr : Nat) (reg low high received : Byte) : Except HostError (BitVec 16) :=
  checkedRead (readMessage16 addr reg low high) received (value16 low high)

/-- `readRegister32(addr, reg)` on the five bytes received (R37). -/
def readRegister32 (addr : Nat) (reg d0 d1 d2 d3 received : Byte)
    (order : ByteOrder := .littleEndian) : Except HostError (BitVec 32) :=
  checkedRead (readMessage32 addr reg d0 d1 d2 d3) received (value32 order d0 d1 d2 d3)

end Sys2Proof.Machine
end

