-- ==== Sys2Proof/Machine/Polynomial.lean ====
section
/-! DEFINITION. The polynomial view of R11, in which R46 is stated. The machine does not use it: "the rules of 40_crc_ops.md do not depend on it, only the derived laws do" (R11; GK1, log entry 7). It is not evaluated, so its definitions are noncomputable. -/

namespace Sys2Proof.Machine

open Polynomial in
/-- A byte as the polynomial `b[7]·x^7 + ... + b[0]·x^0` over GF(2) (R11). -/
noncomputable def bytePoly (b : Byte) : (ZMod 2)[X] :=
  ∑ j ∈ Finset.range 8, if b.getLsbD j then X ^ j else 0

open Polynomial in
/-- A message of `n` bytes as the polynomial whose coefficient of `x^(8(n-1-i)+j)` is `m_i[j]`: the first
byte holds the highest-degree coefficients (R11). -/
noncomputable def messagePoly : Message → (ZMod 2)[X]
  | [] => 0
  | b :: M => bytePoly b * X ^ (8 * M.length) + messagePoly M

open Polynomial in
/-- `G(x) = x^8 + x^2 + x + 1` (R6, R46). -/
noncomputable def generatorPoly : (ZMod 2)[X] := X ^ 8 + X ^ 2 + X + 1

end Sys2Proof.Machine
end

