-- ==== Sys2Proof/Safety.lean ====
section
/-! DEFINITION. The terms in which claims are stated: R51's next-state function as the spec writes it, the message the block has absorbed, what a host that keeps the boot duty of R72 does, and the bits and errors of R56 and R57. -/

namespace Sys2Proof.Machine

/-- `k` steps of the machine. -/
def runFor (k : Nat) (s : State) : Host.Outcome State Fault Refusal := Sys2Proof.core.run k s

/-- R51's `next(crc, rst, op, din)`, line by line, apart from the decoder and the meanings. -/
def nextCrc (crc : Option Byte) (rst : Bool) (op : Op) (din : Byte) : Option Byte :=
  if rst then some 0x00
  else if op = 0b00 then crc
  else if op = 0b01 then some Config.init
  else if op = 0b10 then crc.map fun c => step8 c din
  else some (step8 Config.init din)

/-- The register after one interaction (R21, R34, R69). -/
def crcAfter (crc : Option Byte) : HostEvent → Option Byte
  | .edge rst op din => nextCrc crc rst op din
  | .sample _ => crc
  | .powerCycle => none

/-- The message absorbed so far, `none` where there is no defined one: reset and INIT begin the empty
message, START begins a message with its first byte, UPDATE appends a byte (R48 to R50, R70, R73). -/
def messageAfter (m : Option Message) : HostEvent → Option Message
  | .edge rst op din =>
    if rst then some []
    else if op = 0b00 then m
    else if op = 0b01 then some []
    else if op = 0b10 then m.map fun M => M ++ [din]
    else some [din]
  | .sample _ => m
  | .powerCycle => none

/-- The bytes that a stretch of UPDATEs and NOPs absorbs, in order; `none` if the stretch holds anything
else (R52). -/
def absorbedBy : List HostEvent → Option Message
  | [] => some []
  | .edge rst op din :: es =>
    if rst then none
    else if op = 0b00 then absorbedBy es
    else if op = 0b10 then (absorbedBy es).map fun M => din :: M
    else none
  | .sample _ :: _ => none
  | .powerCycle :: _ => none

/-- The interactions that put `crc` in a defined state: reset, INIT, START (R72). -/
def definesCrc : HostEvent → Bool
  | .edge rst op _ => rst || op == 0b01 || op == 0b11
  | .sample _ => false
  | .powerCycle => false

/-- Whether `crc` is defined after an interaction, from whether it was before (R22, R69, R71). -/
def definedAfter (defined : Bool) : HostEvent → Bool
  | .powerCycle => false
  | e => defined || definesCrc e

/-- The boot duty: the host samples an output only when `crc` is defined (R72). -/
def keepsBootDuty : Bool → List HostEvent → Bool
  | _, [] => true
  | defined, .sample p :: es => defined && keepsBootDuty (definedAfter defined (.sample p)) es
  | defined, e :: es => keepsBootDuty (definedAfter defined e) es

/-- An invariant: `crc` is defined and no power cycle is to come (R22, R69). -/
abbrev State.isDefinedForGood (s : State) : Prop :=
  s.crc ≠ none ∧ HostEvent.powerCycle ∉ s.pending

/-- One bit absorbed into the register, as R31 orders them and R40's loop treats them. -/
def serialStep (v : Byte) (bit : Bool) : Byte :=
  if v.msb != bit then (v <<< 1) ^^^ Config.poly else v <<< 1

/-- The bits of a byte, `din[7]` first (R31). -/
def byteBits (b : Byte) : List Bool := (List.range 8).map fun i => b.getMsbD i

/-- The bits of a message in the order in which they are absorbed (R31, R32). -/
def messageBits (M : Message) : List Bool := M.flatMap byteBits

/-- Bytewise XOR of two messages (R56). -/
def xorMessages (M N : Message) : Message := List.zipWith (fun a b => a ^^^ b) M N

/-- A frame with its CRC byte appended (R57). -/
def withCrc (M : Message) : Message := M ++ [crc8 M]

/-- The corruption pattern `E` on a frame with its CRC byte is detected: the residue is not 0x00 (R56, R57). -/
abbrev detects (M E : Message) : Prop := crc8 (xorMessages (withCrc M) E) ≠ 0x00

end Sys2Proof.Machine
end

