-- ==== Sys2Proof/Certificates/Slice0/Obligations.lean ====
section
/-! DEFINITION. The statements for the provers, each after a rule of spec/. The block has no memory and no registers but `crc` (R20, R25, R30), so a frame names the fields of State that stay. -/

open Sys2Proof Sys2Proof.Machine

/-! ### Encoding (30_encoding.md) -/

/-- R81's match and mask columns: a command is chosen by `cmd[9:8]`, and `din` is `cmd[7:0]`. -/
def Obligations.DecodeSelectsByMaskAndMatch : Prop :=
  ∀ w : Cmd,
    (w &&& 0x300 = 0x000 → decode w = .nop) ∧
    (w &&& 0x300 = 0x100 → decode w = .init) ∧
    (w &&& 0x300 = 0x200 → decode w = .update (w.setWidth 8)) ∧
    (w &&& 0x300 = 0x300 → decode w = .start (w.setWidth 8))

/-- R84: each of the 1024 command words is legal, the words 0x000 to 0x0FF mean NOP and 0x100 to 0x1FF
mean INIT, none else does, and no word traps: the command completes in every state. -/
def Obligations.EveryTenBitNumberIsACommand : Prop :=
  ∀ w : Nat, w < 1024 → ∃ i : Instr, decodeWord w = .ok i ∧
    (i = .nop ↔ w < 0x100) ∧ (i = .init ↔ 0x100 ≤ w ∧ w < 0x200) ∧
    ∀ s : State, ∃ t : State, exec i s = .next t

/-- R80: a command is a 10-bit word. That a larger number is refused by name is the model's reading
(DEDUCED, log entry 11). -/
def Obligations.LargerNumbersAreNoCommand : Prop :=
  ∀ nbits w : Nat, 1024 ≤ w → decodeWord w = .error .notTenBits ∧ decodeTableWord nbits w = none

/-- Decoding the word of a command gives it back, its data byte at every value (R80, R81). -/
def Obligations.DecodeOfEncode : Prop :=
  ∀ (i : Instr) (nbits : Nat), i.wellFormed = true →
    decode (encode i) = i ∧ decodeTableWord nbits (encode i).toNat = some i

/-- Encoding what a word decodes to gives the word back, with `din` written as 0x00 for NOP and INIT
(R81, R84, R86; DEDUCED, log entry 9). -/
def Obligations.EncodeOfDecode : Prop :=
  ∀ w : Cmd, encode (decode w) =
    if w &&& 0x200 = 0x000 then w &&& 0x300 else w

/-- Words written out from the spec's encodings (30_encoding.md, end; 95_test_vectors.md section 2.3). -/
def Obligations.WordsOfTheSpecDecode : Prop :=
  decode 0b0001010101 = .nop ∧ decode 0x0FF = .nop ∧
  decode 0b0100000000 = .init ∧ decode 0x1A5 = .init ∧
  decode 0b1001000010 = .update 0x42 ∧ decode 0x2FF = .update 0xFF ∧
  decode 0b1101000010 = .start 0x42 ∧ decode 0x3FF = .start 0xFF

/-- R82: NOP and INIT ignore `din`; UPDATE and START use it as it is. -/
def Obligations.OperandIsIgnoredOrUsedAsIs : Prop :=
  ∀ (din din' : Byte) (s : State),
    clockEdge false 0b00 din s = clockEdge false 0b00 din' s ∧
    clockEdge false 0b01 din s = clockEdge false 0b01 din' s ∧
    clockEdge false 0b10 din s = exec (.update din) s ∧
    clockEdge false 0b11 din s = exec (.start din) s ∧
    operandByte din = din

/-! ### The commands (40_crc_ops.md section 2) -/

/-- R47: NOP leaves the whole state as it is, `⊥` and `zero` included, whatever `din` is, and any number
of NOPs does. -/
def Obligations.NopHolds : Prop :=
  ∀ s : State, exec .nop s = .next s ∧
    (∀ din : Byte, clockEdge false 0b00 din s = .next s) ∧
    ∀ (dins : List Byte) (rest : List HostEvent),
      s.pending = dins.map (fun d => HostEvent.edge false 0b00 d) ++ rest →
      runFor dins.length s = .next { s with pending := rest }

/-- R48: INIT writes 0x00 without reading `crc`, from `⊥` too, whatever `din` is; `zero` becomes 1,
`crc_out` is `crc8([])`, and a second INIT changes nothing. -/
def Obligations.InitRestarts : Prop :=
  ∀ s : State, ∃ t : State, exec .init s = .next t ∧ t = { s with crc := some 0x00 } ∧
    (∀ din : Byte, clockEdge false 0b01 din s = .next t) ∧
    t.zero = some true ∧ t.crcOut = some (crc8 []) ∧ crc8 [] = 0x00 ∧ exec .init t = .next t

/-- R49: UPDATE absorbs `din` into a defined `crc`, `zero` becoming 1 exactly when `din` was equal to it;
from `⊥` it leaves `⊥` and raises nothing, reading the `⊥` being the model fault; its corner cases are as listed. -/
def Obligations.UpdateAbsorbsOneByte : Prop :=
  ∀ (din : Byte) (s : State),
    clockEdge false 0b10 din s = exec (.update din) s ∧
    (∀ c : Byte, s.crc = some c → ∃ t : State, exec (.update din) s = .next t ∧
      t = { s with crc := some (step8 c din) } ∧ step8 c din = tableEntry (c ^^^ din) ∧
      (t.zero = some true ↔ din = c)) ∧
    (s.crc = none → exec (.update din) s = .next s ∧ s.zero = none ∧
      observeCrcOut s = .error .undefinedStateRead) ∧
    step8 0x00 0x00 = 0x00 ∧ step8 din din = 0x00 ∧ step8 0x00 din = tableEntry din ∧
    step8 0x00 0xFF = 0xF3 ∧ step8 (step8 0x00 0xFF) 0xFF = 0x24 ∧ step8 0xC9 0x00 = 0x71

/-- R50: START begins a message with its first byte, without reading `crc`; `zero` becomes 1 exactly
when `din` is 0x00; START 0x00 is INIT, and START is INIT followed by UPDATE. -/
def Obligations.StartBeginsAMessage : Prop :=
  ∀ (din : Byte) (s : State),
    clockEdge false 0b11 din s = exec (.start din) s ∧
    (∃ t : State, exec (.start din) s = .next t ∧
      t = { s with crc := some (step8 0x00 din) } ∧ step8 0x00 din = tableEntry din ∧
      (t.zero = some true ↔ din = 0x00)) ∧
    exec (.start 0x00) s = exec .init s ∧
    (∃ t : State, exec .init s = .next t ∧ exec (.update din) t = exec (.start din) s) ∧
    tableEntry 0x42 = 0xC9

/-- R51, R65: with an edge pending, the step is the complete next-state function of the spec applied to
`crc`, total in `rst`, `op` and `din`; the edge is taken off, and nothing else changes. -/
def Obligations.EdgeIsTheNextStateFunction : Prop :=
  ∀ (rst : Bool) (op : Op) (din : Byte) (rest : List HostEvent) (s : State),
    s.pending = .edge rst op din :: rest →
    step s = .next { s with crc := nextCrc s.crc rst op din, pending := rest }

/-- Every command (NOP, INIT, UPDATE, START) completes in every state, with the register R51 gives it,
and leaves everything else: what is pending, what was sampled, the fault record. -/
def Obligations.EveryCommandCompletesInItsFrame : Prop :=
  ∀ (i : Instr) (s : State), ∃ t : State, exec i s = .next t ∧
    t.crc = nextCrc s.crc false (opOf (encode i)) (dinOf (encode i)) ∧
    t.pending = s.pending ∧ t.samples = s.samples ∧ t.fault = s.fault

/-- The frame of NOP, INIT, UPDATE, START: whatever next state a command answers, only `crc` may differ;
NOP leaves `crc` too. The block has no other register, flag or memory (R20, R28). -/
def Obligations.CommandsChangeOnlyTheRegister : Prop :=
  ∀ (i : Instr) (s t : State), exec i s = .next t →
    t.pending = s.pending ∧ t.samples = s.samples ∧ t.fault = s.fault ∧
      (i = .nop → t.crc = s.crc)

/-- R21: every step writes `crc` by the event performed and by nothing else, and each 8-bit value is
`step8(0x00, b)` for exactly one byte `b`. -/
def Obligations.OnlyTheListedEventsWriteTheRegister : Prop :=
  (∀ s t : State, step s = .next t → t.crc = crcAfter s.crc s.nextEvent) ∧
  ∀ v : Byte, ∃! b : Byte, step8 0x00 b = v

/-- The step at an edge with `rst = 0` is `exec` of the command its word decodes to, the edge taken off
what is pending (R38, R51). -/
def Obligations.StepRunsTheDecodedCommand : Prop :=
  ∀ (s : State) (op : Op) (din : Byte) (rest : List HostEvent) (i : Instr),
    s.pending = .edge false op din :: rest → decode (cmdOf op din) = i →
    step s = exec i { s with pending := rest }

/-- A command word presented first is what the very next step runs, and what was pending is kept
(the order is the model's choice, DESIGN CHOICE, log entry 5). -/
def Obligations.PresentedWordRunsNext : Prop :=
  ∀ (s : State) (nbits w : Nat), w < 1024 →
    step (s.withFetchWord nbits w) = exec (decode (BitVec.ofNat 10 w)) s

/-- With nothing pending the edge is NOP with `rst = 0` and nothing changes: the model's choice (log
entry 2), after R29's "holding `op = 00` (NOP) means no command". -/
def Obligations.IdleEdgeHolds : Prop :=
  ∀ s : State, s.pending = [] → step s = .next s

/-- R60: no command and no edge traps; a step has no hardware fault outcome, the only fault being the
model fault of R64. -/
def Obligations.NoCommandTraps : Prop :=
  (∀ (i : Instr) (s : State), ∃ t : State, exec i s = .next t) ∧
  (∀ (rst : Bool) (op : Op) (din : Byte) (s : State), ∃ t : State, clockEdge rst op din s = .next t) ∧
  (∀ (s : State) (f : Fault), step s = .fault f → f = .undefinedStateRead) ∧
  ∀ f : Fault, f = .undefinedStateRead

/-- Every step of every state answers a next state, a sampling of `⊥` included: that a run goes on after
`UndefinedStateRead` is recorded is the model's reading of R64 and R79 (DEDUCED, log entry 3). -/
def Obligations.EveryStepCompletes : Prop :=
  ∀ s : State, ∃ t : State, step s = .next t

/-! ### Reset, power-on and the undefined value (10_state.md, 70_reset_and_hazards.md) -/

/-- R70, R83: at an edge with `rst = 1`, `crc` becomes 0x00 whatever `op`, `din` and `crc` are; `crc_out`
is 0x00 and `zero` 1; holding `rst` for several edges is one such edge; a message may begin directly
after it with UPDATE. -/
def Obligations.ResetWinsOverTheCommand : Prop :=
  ∀ (op : Op) (din : Byte) (s : State), ∃ t : State, clockEdge true op din s = .next t ∧
    t = { s with crc := some 0x00 } ∧ t.crcOut = some 0x00 ∧ t.zero = some true ∧
    (∀ b : Byte, exec (.update b) t = exec (.start b) t) ∧
    ∀ (ports : List (Op × Byte)) (rest : List HostEvent), ports ≠ [] →
      s.pending = ports.map (fun p => HostEvent.edge true p.1 p.2) ++ rest →
      runFor ports.length s = .next { s with crc := some 0x00, pending := rest }

/-- R70 and 10_state.md section 5: the state after reset, which is what one reset edge makes of the
power-on state, the host's fields being empty in both (DESIGN CHOICE, log entry 4). -/
def Obligations.ResetStateIsAsTabulated : Prop :=
  State.reset.crc = some 0x00 ∧ State.reset.crcOut = some 0x00 ∧ State.reset.zero = some true ∧
  clockEdge true 0b00 0x00 State.powerOn = .next State.reset

/-- R71: from power-on, through any NOPs and UPDATEs, `crc` stays `⊥` and observing either output is the
model fault; the first edge that applies reset, INIT or START defines it. -/
def Obligations.PowerOnIsUndefinedUntilDefined : Prop :=
  State.powerOn.crc = none ∧
  ∀ (ports : List (Op × Byte)) (rst : Bool) (op : Op) (din : Byte),
    (∀ p ∈ ports, p.1 = 0b00 ∨ p.1 = 0b10) → (rst = true ∨ op = 0b01 ∨ op = 0b11) →
    ∃ t u : State,
      runFor ports.length { State.powerOn with
        pending := ports.map (fun p => HostEvent.edge false p.1 p.2) ++ [.edge rst op din] } = .next t ∧
      t.crc = none ∧ observeCrcOut t = .error .undefinedStateRead ∧
      observeZero t = .error .undefinedStateRead ∧ step t = .next u ∧ u.crc ≠ none

/-- R22: no command turns a defined value into `⊥`, and a `⊥` becomes defined exactly by a reset, an
INIT or a START. -/
def Obligations.OnlyResetInitStartDefine : Prop :=
  (∀ (i : Instr) (s t : State), s.crc ≠ none → exec i s = .next t → t.crc ≠ none) ∧
  ∀ s t : State, s.crc = none → step s = .next t → (t.crc ≠ none ↔ definesCrc s.nextEvent = true)

/-- An invariant every step keeps: `crc` is defined and no power cycle is to come (R22, R69). -/
def Obligations.StepKeepsDefinedForGood : Prop :=
  ∀ s t : State, s.isDefinedForGood → step s = .next t → t.isDefinedForGood

/-- The invariant holds in State.reset: `crc` is defined because reset writes 0x00 (R70); that no power
cycle is pending is the model's choice of empty host fields there (DESIGN CHOICE, log entry 4). -/
def Obligations.ResetIsDefinedForGood : Prop := State.reset.isDefinedForGood

/-- R69: a power cycle is a new power-on, `crc = ⊥`; what the host holds stays (DEDUCED, log entry 12). -/
def Obligations.PowerCycleUndefines : Prop :=
  ∀ (s : State) (rest : List HostEvent), s.pending = .powerCycle :: rest →
    step s = .next { s with crc := none, pending := rest }

/-! ### The outputs and the model fault (10_state.md section 2, 60_exceptions.md) -/

/-- R43: the result of a register value `c` is `c ^ XOROUT`, which is `c`, and it is on `crc_out`. -/
def Obligations.ResultIsTheRegister : Prop :=
  (∀ c : Byte, resultOf c = c ^^^ Config.xorout ∧ resultOf c = c) ∧ ∀ s : State, s.crcOut = s.crc

/-- R24: `zero` is 1 if `crc_out` is 0x00, else 0, `⊥` exactly when `crc` is, and 1 after reset; it is a
function of `crc` alone. -/
def Obligations.ZeroFollowsTheRegister : Prop :=
  (∀ (s : State) (c : Byte), s.crcOut = some c → s.zero = some (decide (c = 0x00))) ∧
  (∀ s : State, s.zero = none ↔ s.crc = none) ∧
  (∀ s t : State, s.crc = t.crc → s.zero = t.zero) ∧ State.reset.zero = some true

/-- R23, R34: sampling a port shows its value, changes neither the register nor what is pending after
it, and can be repeated with the same answer. -/
def Obligations.SamplingHasNoSideEffect : Prop :=
  ∀ (s : State) (rest : List HostEvent),
    (s.pending = .sample .crcOut :: .sample .crcOut :: rest →
      ∃ t : State, runFor 2 s = .next t ∧ t.crc = s.crc ∧ t.pending = rest ∧
        t.samples = s.samples ++ [.crcOut s.crcOut, .crcOut s.crcOut]) ∧
    (s.pending = .sample .zero :: .sample .zero :: rest →
      ∃ t : State, runFor 2 s = .next t ∧ t.crc = s.crc ∧ t.pending = rest ∧
        t.samples = s.samples ++ [.zero s.zero, .zero s.zero])

/-- R64: observing an output raises `UndefinedStateRead` exactly while `crc` is `⊥`; a step records it
exactly when it performs such an observation, and a record once made stays. That the step answers a next
state with the record, rather than stop, is the model's reading (DEDUCED, log entry 3). -/
def Obligations.UndefinedReadIsRecordedExactly : Prop :=
  (∀ s : State, (observeCrcOut s = .error .undefinedStateRead ↔ s.crc = none) ∧
    (observeZero s = .error .undefinedStateRead ↔ s.crc = none)) ∧
  ∀ s : State, ∃ t : State, step s = .next t ∧
    (t.fault = some .undefinedStateRead ↔
      s.fault = some .undefinedStateRead ∨
        (s.crc = none ∧ ∃ p : OutPort, s.nextEvent = .sample p))

/-- R64: "the fault is never cleared", over a run of any length (a run goes on with the record: DEDUCED,
log entry 3). -/
def Obligations.FaultIsNeverCleared : Prop :=
  ∀ (k : Nat) (s t : State) (f : Fault), s.fault = some f → runFor k s = .next t → t.fault = some f

/-- R72: a host that samples an output only once a reset, an INIT or a START has defined `crc` never has
`UndefinedStateRead` recorded, however long it runs (samplings are steps: DESIGN CHOICE, log entry 6). -/
def Obligations.BootDutyKeepsTheRecordClean : Prop :=
  ∀ (k : Nat) (s : State), s.fault = none → keepsBootDuty s.crc.isSome s.pending = true →
    ∃ t : State, runFor k s = .next t ∧ t.fault = none

/-- R74: a sampling just after an edge shows the value the edge wrote, a sampling before it the value
from before (samplings stand between edges: DESIGN CHOICE, log entry 6). -/
def Obligations.SampleAfterTheEdgeShowsTheNewValue : Prop :=
  ∀ (s : State) (rst : Bool) (op : Op) (din : Byte) (rest : List HostEvent),
    (s.pending = .edge rst op din :: .sample .crcOut :: rest →
      ∃ t : State, runFor 2 s = .next t ∧ t.crc = nextCrc s.crc rst op din ∧
        t.samples = s.samples ++ [.crcOut (nextCrc s.crc rst op din)]) ∧
    (s.pending = .sample .crcOut :: .edge rst op din :: rest →
      ∃ t : State, runFor 2 s = .next t ∧ t.crc = nextCrc s.crc rst op din ∧
        t.samples = s.samples ++ [.crcOut s.crc])

/-- R79: what is observed at the end of a run is `crc_out`, `zero` and the record of any
`UndefinedStateRead`, which observing `⊥` itself raises (DEDUCED, log entry 17). -/
def Obligations.EndOfRunObservation : Prop :=
  ∀ s : State,
    (∀ c : Byte, s.crc = some c →
      s.observation = { crcOut := some c, zero := some (decide (c = 0x00)), fault := s.fault }) ∧
    (s.crc = none →
      s.observation = { crcOut := none, zero := none, fault := some .undefinedStateRead })

/-! ### The byte step and the message function (40_crc_ops.md section 1) -/

/-- R41, R42: R41's printed table is `step8(0x00, v)` for each `v`, holds each byte exactly once, is zero
only at zero, and `step8(c, b) = T[c ^ b]`. -/
def Obligations.TableIsTheByteStep : Prop :=
  (∀ v : Byte, tableEntry v = step8 0x00 v) ∧ crcTable.length = 256 ∧
  (∀ v : Byte, v ∈ crcTable) ∧ crcTable.Nodup ∧ (∀ v : Byte, tableEntry v = 0x00 ↔ v = 0x00) ∧
  tableEntry 0x42 = 0xC9 ∧ ∀ c b : Byte, step8 c b = tableEntry (c ^^^ b)

/-- R31: absorbing a byte at once is absorbing its bits one by one, `din[7]` first. -/
def Obligations.ByteStepAbsorbsTheTopBitFirst : Prop :=
  ∀ c b : Byte, step8 c b = (byteBits b).foldl serialStep c

/-- R44: the message function starts from `INIT`, absorbs the bytes in order and XORs `XOROUT`; the CRC
of "123456789" is 0xF4, through the register values the rule lists. -/
def Obligations.MessageFunction : Prop :=
  (∀ M : Message, crc8 M = M.foldl step8 Config.init ^^^ Config.xorout) ∧
  crc8 [0x31, 0x32, 0x33, 0x34, 0x35, 0x36, 0x37, 0x38, 0x39] = 0xF4 ∧
  [0x31, 0x32, 0x33, 0x34, 0x35, 0x36, 0x37, 0x38, 0x39].scanl step8 0x00 =
    [0x00, 0x97, 0x72, 0xC0, 0xC2, 0xCB, 0xFD, 0x78, 0xC7, 0xF4]

/-- R46: in the polynomial view of R11, `step8(c, b)` is `(c ⊕ b)(x) · x^8` modulo `G(x)`, and `crc8(M)`
is `M(x) · x^8` modulo `G(x)`. -/
def Obligations.CrcIsThePolynomialRemainder : Prop :=
  (∀ c b : Byte, bytePoly (step8 c b) = (bytePoly (c ^^^ b) * Polynomial.X ^ 8) %ₘ generatorPoly) ∧
  ∀ M : Message, bytePoly (crc8 M) = (messagePoly M * Polynomial.X ^ 8) %ₘ generatorPoly

/-! ### Messages and the laws (40_crc_ops.md section 3) -/

/-- R52: from any state, START on the first byte and then UPDATEs, with NOPs anywhere between, leaves
`crc8` of the message on `crc_out`; so does INIT and then UPDATEs; INIT alone leaves `crc8([])`; a START
or INIT in the middle of a message restarts it, since the state is any; without NOPs a message of n ≥ 1
bytes takes n edges, or n + 1 with INIT first. -/
def Obligations.CommandsRealiseTheMessageFunction : Prop :=
  ∀ (s : State) (es rest : List HostEvent) (M : Message) (b d : Byte), absorbedBy es = some M →
    (s.pending = .edge false 0b11 b :: es ++ rest →
      ∃ t : State, runFor (es.length + 1) s = .next t ∧ t.crcOut = some (crc8 (b :: M)) ∧
        t.pending = rest) ∧
    (s.pending = .edge false 0b01 d :: es ++ rest →
      ∃ t : State, runFor (es.length + 1) s = .next t ∧ t.crcOut = some (crc8 M) ∧
        t.pending = rest) ∧
    (presentMessage (b :: M)).length = M.length + 1 ∧
    (presentMessage (b :: M)).tail.length = M.length ∧ absorbedBy (presentMessage (b :: M)).tail = some M

/-- R38: after edge `k`, `crc` is the result of what was presented at edges 1 to `k`, applied in order by
R51; what follows is neither lost nor reordered, and nothing else changes. -/
def Obligations.EdgesTakeEffectInOrder : Prop :=
  ∀ (ports : List (Bool × Op × Byte)) (rest : List HostEvent) (s : State),
    s.pending = ports.map (fun p => HostEvent.edge p.1 p.2.1 p.2.2) ++ rest →
    runFor ports.length s = .next
      { s with
        crc := ports.foldl (fun c p => nextCrc c p.1 p.2.1 p.2.2) s.crc
        pending := rest }

/-- R73, R75: the block follows the message that the host's interactions have made, whoever's bytes they
are: if `crc_out` is the CRC of the message absorbed so far, it still is after any stretch. A message
begun with UPDATE continues the one before, and interleaved bytes make the CRC of the interleaved
stream. Samplings and power cycles may stand in the stretch (DESIGN CHOICE, log entries 6 and 12). -/
def Obligations.BlockRefinesTheMessageAbsorbed : Prop :=
  ∀ (es rest : List HostEvent) (s : State) (m : Option Message),
    s.pending = es ++ rest → s.crcOut = m.map crc8 →
    ∃ t : State, runFor es.length s = .next t ∧ t.pending = rest ∧
      t.crcOut = (es.foldl messageAfter m).map crc8

/-- R53: the empty message, one byte, leading zero bytes, and the first byte of a frame. -/
def Obligations.SmallMessages : Prop :=
  crc8 [] = 0x00 ∧ (∀ b : Byte, crc8 [b] = tableEntry b) ∧
  (∀ M : Message, crc8 (0x00 :: M) = crc8 M) ∧
  (∀ (n : Nat) (M : Message), crc8 (List.replicate n 0x00 ++ M) = crc8 M) ∧
  ∀ addr : Nat, addr ≤ 0x7F → addr ≠ 0 → writeAddressByte addr ≠ 0x00

/-- R54: a message with its own CRC byte has residue 0x00, so a host that absorbs a received CRC byte
sees `zero = 1` exactly when the byte is the recomputed CRC. -/
def Obligations.ResidueOfACorrectFrame : Prop :=
  (∀ M : Message, crc8 (M ++ [crc8 M]) = 0x00) ∧
  ∀ (M : Message) (c : Byte) (s : State), s.crcOut = some (crc8 M) →
    ∃ t : State, exec (.update c) s = .next t ∧ (t.zero = some true ↔ c = crc8 M)

/-- R55: the residue of a received CRC byte is `T` of its difference from the right one, zero only when
there is none; a flipped bit `i` gives `T[1 << i]`, as tabulated and never zero. -/
def Obligations.MismatchIsDetected : Prop :=
  (∀ (M : Message) (c : Byte), crc8 (M ++ [c]) = tableEntry (crc8 M ^^^ c) ∧
    (crc8 (M ++ [c]) = 0x00 ↔ c = crc8 M)) ∧
  (∀ (M : Message) (i : Nat), i < 8 →
    crc8 (M ++ [crc8 M ^^^ (0x01#8 <<< i)]) = tableEntry (0x01#8 <<< i) ∧
      tableEntry (0x01#8 <<< i) ≠ 0x00) ∧
  (List.range 8).map (fun i => tableEntry (0x01#8 <<< i)) =
    [0x07, 0x0E, 0x1C, 0x38, 0x70, 0xE0, 0xC7, 0x89]

/-- R56: the byte step and, on messages of equal length, the message function are linear over XOR, so a
corruption of a frame with residue 0x00 is missed exactly when its own CRC is 0x00. -/
def Obligations.CrcIsLinear : Prop :=
  (∀ c₁ c₂ b₁ b₂ : Byte, step8 (c₁ ^^^ c₂) (b₁ ^^^ b₂) = step8 c₁ b₁ ^^^ step8 c₂ b₂) ∧
  (∀ M N : Message, M.length = N.length → crc8 (xorMessages M N) = crc8 M ^^^ crc8 N) ∧
  ∀ M E : Message, E.length = M.length + 1 → (¬ detects M E ↔ crc8 E = 0x00)

/-- R57: every single-bit error, and every error with an odd number of flipped bits, is detected, on a
frame of any length. -/
def Obligations.OddErrorsAreDetected : Prop :=
  ∀ M E : Message, E.length = M.length + 1 →
    ((messageBits E).count true = 1 → detects M E) ∧
    ((messageBits E).count true % 2 = 1 → detects M E)

/-- R57: every burst of length 8 or less is detected, on a frame of any length. -/
def Obligations.ShortBurstsAreDetected : Prop :=
  ∀ (M E : Message) (p q : Nat) (burst : List Bool), E.length = M.length + 1 →
    messageBits E = List.replicate p false ++ burst ++ List.replicate q false →
    burst.length ≤ 8 → true ∈ burst → detects M E

/-- R57: every two-bit error whose bits are less than 127 positions apart is detected. -/
def Obligations.NearbyTwoBitErrorsAreDetected : Prop :=
  ∀ (M E : Message) (p d q : Nat), E.length = M.length + 1 →
    messageBits E = List.replicate p false ++ [true] ++ List.replicate d false ++ [true] ++
      List.replicate q false →
    d + 1 < 127 → detects M E

/-- R57: over the frames of R35 to R37, at most 8 bytes with the CRC byte, every two-bit error is
detected; errors of even weight 4 may pass, as 95_test_vectors.md section 2.6 shows. -/
def Obligations.ReachOverTheFramesOfTheHost : Prop :=
  (∀ M E : Message, M.length ≤ 7 → E.length = M.length + 1 → (messageBits E).count true = 2 →
    detects M E) ∧
  ¬ detects [0x42, 0x0C, 0x43, 0xFF, 0x9F] [0x00, 0x00, 0x00, 0x00, 0x01, 0x07] ∧
  (messageBits [0x00, 0x00, 0x00, 0x00, 0x01, 0x07]).count true = 4

/-! ### The host's frames and checks (20_memory.md section 4, 60_exceptions.md) -/

/-- R35: the CRC message of a 16-bit register write, and the bytes sent after the register index. -/
def Obligations.WriteFrame : Prop :=
  ∀ (addr : Nat) (reg : Byte) (value : BitVec 16), addr ≤ 0x7F →
    writeMessage16 addr reg value =
      .ok [BitVec.ofNat 8 (2 * addr), reg, value.setWidth 8, (value >>> 8).setWidth 8] ∧
    writeBytes16 addr reg value =
      .ok [value.setWidth 8, (value >>> 8).setWidth 8,
        crc8 [BitVec.ofNat 8 (2 * addr), reg, value.setWidth 8, (value >>> 8).setWidth 8]]

/-- R36: a 16-bit read recomputes the CRC over the five bytes of its frame, compares it with the received
byte, and returns `low | (high << 8)`; on a mismatch, ChecksumMismatch (R62). -/
def Obligations.ReadFrame16 : Prop :=
  ∀ (addr : Nat) (reg low high received : Byte), addr ≤ 0x7F →
    readMessage16 addr reg low high =
      .ok [BitVec.ofNat 8 (2 * addr), reg, BitVec.ofNat 8 (2 * addr + 1), low, high] ∧
    readRegister16 addr reg low high received =
      if received = crc8 [BitVec.ofNat 8 (2 * addr), reg, BitVec.ofNat 8 (2 * addr + 1), low, high]
      then .ok (low.setWidth 16 ||| (high.setWidth 16 <<< 8)) else .error .checksumMismatch

/-- R37: a 32-bit read recomputes the CRC over the seven bytes of its frame and assembles the value
little-endian (D18's default for the parameter of I7). -/
def Obligations.ReadFrame32 : Prop :=
  ∀ (addr : Nat) (reg d0 d1 d2 d3 received : Byte), addr ≤ 0x7F →
    readMessage32 addr reg d0 d1 d2 d3 =
      .ok [BitVec.ofNat 8 (2 * addr), reg, BitVec.ofNat 8 (2 * addr + 1), d0, d1, d2, d3] ∧
    readRegister32 addr reg d0 d1 d2 d3 received =
      if received = crc8 [BitVec.ofNat 8 (2 * addr), reg, BitVec.ofNat 8 (2 * addr + 1), d0, d1, d2, d3]
      then .ok (d0.setWidth 32 ||| (d1.setWidth 32 <<< 8) ||| (d2.setWidth 32 <<< 16) |||
        (d3.setWidth 32 <<< 24))
      else .error .checksumMismatch

/-- D19, I6: the frames refuse a peripheral address above 0x7F. -/
def Obligations.FramesRefuseLargeAddresses : Prop :=
  ∀ (addr : Nat) (reg low high d2 d3 received : Byte) (value : BitVec 16), 0x7F < addr →
    writeMessage16 addr reg value = .error .peripheralAddressTooLarge ∧
    writeBytes16 addr reg value = .error .peripheralAddressTooLarge ∧
    readRegister16 addr reg low high received = .error (.refused .peripheralAddressTooLarge) ∧
    readRegister32 addr reg low high d2 d3 received = .error (.refused .peripheralAddressTooLarge)

/-- R62: the host's two checks agree. After a message, comparing `crc_out` with the received CRC byte and
absorbing that byte and testing `zero` find the same mismatches, and the block keeps no record of them. -/
def Obligations.HostChecksAgree : Prop :=
  ∀ (M : Message) (received : Byte) (s : State), s.crcOut = some (crc8 M) →
    ∃ (t : State) (z : Bool), exec (.update received) s = .next t ∧ t.zero = some z ∧
      (mismatchByZero z = true ↔ received ≠ crc8 M) ∧
      mismatchByZero z = mismatchByCompare (crc8 M) received ∧ t.fault = s.fault

/-- R77 says that the read CRC and the write CRC of a register value are different numbers. At the default
peripheral address they are, for every register and value; at address 1 there is a register for which
they are equal, so the sentence does not hold of every address (DEDUCED, log entry 15). -/
def Obligations.ReadCrcAgainstWriteCrc : Prop :=
  (∀ reg low high : Byte,
    crc8 [writeAddressByte Config.defaultAddr, reg, low, high] ≠
      crc8 [writeAddressByte Config.defaultAddr, reg, readAddressByte Config.defaultAddr, low, high]) ∧
  ∃ reg : Byte, ∀ low high : Byte,
    crc8 [writeAddressByte 1, reg, low, high] =
      crc8 [writeAddressByte 1, reg, readAddressByte 1, low, high]

/-! ### Programs (30_encoding.md section 5) -/

/-- R87: the pseudo-instructions, from any state, with anything pending after them. CRC leaves the CRC of
its bytes, 0x00 for none; CHECK leaves `zero = 1` exactly when its last byte is the CRC of the others;
WAIT leaves the state as it is for its n edges. -/
def Obligations.PseudoInstructionsDoAsListed : Prop :=
  ∀ (s : State) (rest : List HostEvent) (bs : Message) (c : Byte) (n : Nat),
    (s.pending = (AsmLine.crc bs).events ++ rest →
      ∃ t : State, runFor (AsmLine.crc bs).events.length s = .next t ∧
        t.crcOut = some (crc8 bs) ∧ t.pending = rest) ∧
    (s.pending = (AsmLine.check bs c).events ++ rest →
      ∃ t : State, runFor (AsmLine.check bs c).events.length s = .next t ∧
        (t.zero = some true ↔ c = crc8 bs) ∧ t.pending = rest) ∧
    (s.pending = (AsmLine.wait n).events ++ rest →
      runFor n s = .next { s with pending := rest }) ∧
    (AsmLine.wait n).events.length = n

/-- R86: each form of line is one edge, with the word the rule writes for it. -/
def Obligations.LinesAreTheirEdges : Prop :=
  AsmLine.nop.events = [.edge false 0b00 0x00] ∧ AsmLine.init.events = [.edge false 0b01 0x00] ∧
  (∀ b : Byte, (AsmLine.update b).events = [.edge false 0b10 b]) ∧
  (∀ b : Byte, (AsmLine.start b).events = [.edge false 0b11 b]) ∧
  AsmLine.reset.events = [.edge true 0b00 0x00]

/-- R86: the assembler's text. A byte is a hexadecimal literal, a decimal literal or a quoted ASCII
character, `;` begins a comment, and a number above 255 is no byte (the rest of the lexical form is the
model's choice, log entry 10). -/
def Obligations.AssemblerReadsTheForms : Prop :=
  parseLine ['U', 'P', 'D', 'A', 'T', 'E', ' ', '0', 'x', 'F', 'F'] = .ok (some (.update 0xFF)) ∧
  parseLine ['U', 'P', 'D', 'A', 'T', 'E', ' ', '2', '5', '5'] = .ok (some (.update 0xFF)) ∧
  parseLine ['U', 'P', 'D', 'A', 'T', 'E', ' ', '2', '5', '6'] = .error .notAByte ∧
  parseLine ['S', 'T', 'A', 'R', 'T', ' ', quoteMark, '1', quoteMark, ';', ' ', '1'] =
    .ok (some (.start 0x31)) ∧
  parseLine ['N', 'O', 'P'] = .ok (some .nop) ∧ parseLine ['I', 'N', 'I', 'T'] = .ok (some .init) ∧
  parseLine ['R', 'E', 'S', 'E', 'T'] = .ok (some .reset)
end

