-- ==== Sys2Proof/Laws/Decode.lean ====
section
/-! SUPPORT. The fields of a command word built from its two ports, and what each code of `op` decodes to (R80, R81). -/

namespace Sys2Proof

@[simp] theorem opOf_cmdOf (op : Op) (din : Byte) : opOf (cmdOf op din) = op := by
  unfold opOf cmdOf; ext i hi
  simp [show 8 + i < 10 by omega, BitVec.getLsbD_eq_getElem hi]

@[simp] theorem dinOf_cmdOf (op : Op) (din : Byte) : dinOf (cmdOf op din) = din := by
  unfold dinOf cmdOf; ext i hi; simp [show i < 10 by omega, hi]

@[simp] theorem cmdOf_opOf_dinOf (w : Cmd) : cmdOf (opOf w) (dinOf w) = w := by
  unfold opOf dinOf cmdOf; ext i hi
  by_cases h : i < 8
  · simp [h, BitVec.getLsbD_eq_getElem hi]
  · simp [h, show 8 + (i - 8) = i by omega, show i - 8 < 2 by omega, BitVec.getLsbD_eq_getElem hi]

@[simp] theorem decode_cmdOf_nop (din : Byte) : decode (cmdOf 0#2 din) = .nop := by simp [decode]

@[simp] theorem decode_cmdOf_init (din : Byte) : decode (cmdOf 1#2 din) = .init := by simp [decode]

@[simp] theorem decode_cmdOf_update (din : Byte) : decode (cmdOf 2#2 din) = .update din := by
  simp [decode]

@[simp] theorem decode_cmdOf_start (din : Byte) : decode (cmdOf 3#2 din) = .start din := by
  simp [decode]

/-- The four codes are all there are. -/
theorem Op.cases (op : Op) : op = 0#2 ∨ op = 1#2 ∨ op = 2#2 ∨ op = 3#2 := by
  revert op; decide

end Sys2Proof
end

