-- ==== Sys2Proof/Laws/State.lean ====
section
/-! SUPPORT. One lemma per field of State per update, so that no proof unfolds a record update. -/

namespace Sys2Proof.Machine

variable (s : State) (v : Option Byte) (es : List HostEvent) (x : Sample) (f : Fault)

@[simp] theorem State.writeCrc_crc : (s.writeCrc v).crc = v := rfl
@[simp] theorem State.writeCrc_pending : (s.writeCrc v).pending = s.pending := rfl
@[simp] theorem State.writeCrc_samples : (s.writeCrc v).samples = s.samples := rfl
@[simp] theorem State.writeCrc_fault : (s.writeCrc v).fault = s.fault := rfl
@[simp] theorem State.writeCrc_self : s.writeCrc s.crc = s := rfl

@[simp] theorem State.setPending_crc : (s.setPending es).crc = s.crc := rfl
@[simp] theorem State.setPending_pending : (s.setPending es).pending = es := rfl
@[simp] theorem State.setPending_samples : (s.setPending es).samples = s.samples := rfl
@[simp] theorem State.setPending_fault : (s.setPending es).fault = s.fault := rfl

@[simp] theorem State.addSample_crc : (s.addSample x).crc = s.crc := rfl
@[simp] theorem State.addSample_pending : (s.addSample x).pending = s.pending := rfl
@[simp] theorem State.addSample_samples : (s.addSample x).samples = s.samples ++ [x] := rfl
@[simp] theorem State.addSample_fault : (s.addSample x).fault = s.fault := rfl

@[simp] theorem State.recordFault_crc : (s.recordFault f).crc = s.crc := rfl
@[simp] theorem State.recordFault_pending : (s.recordFault f).pending = s.pending := rfl
@[simp] theorem State.recordFault_samples : (s.recordFault f).samples = s.samples := rfl
@[simp] theorem State.recordFault_fault : (s.recordFault f).fault = some (s.fault.getD f) := rfl

@[simp] theorem State.dropEvent_crc : s.dropEvent.crc = s.crc := rfl
@[simp] theorem State.dropEvent_pending : s.dropEvent.pending = s.pending.tail := rfl
@[simp] theorem State.dropEvent_samples : s.dropEvent.samples = s.samples := rfl
@[simp] theorem State.dropEvent_fault : s.dropEvent.fault = s.fault := rfl

/-- Recording what an observation raised touches nothing but the fault record. -/
theorem State.recordIfRaised_frame {α : Type} (r : Except Fault α) :
    (s.recordIfRaised r).crc = s.crc ∧ (s.recordIfRaised r).pending = s.pending ∧
      (s.recordIfRaised r).samples = s.samples := by
  cases r <;> exact ⟨rfl, rfl, rfl⟩

end Sys2Proof.Machine
end

