-- ==== Sys2Proof/Laws/Ops.lean ====
section
/-! SUPPORT. One lemma per shared operation on the CRC register. -/

namespace Sys2Proof.Machine

/-- `REFIN` is false: the operand is `din` itself (R82). -/
@[simp] theorem operandByte_eq (din : Byte) : operandByte din = din := rfl

/-- `REFOUT` is false and `XOROUT` is zero: the result is the register (R43). -/
@[simp] theorem resultOf_eq (c : Byte) : resultOf c = c := BitVec.xor_zero

theorem absorb_eq (c din : Byte) : absorb c din = step8 c din := rfl

theorem absorb_eq_step8 : absorb = step8 := rfl

theorem absorbAll_eq (c : Byte) (M : Message) : absorbAll c M = M.foldl step8 c := rfl

theorem absorbAll_append (c : Byte) (M N : Message) :
    absorbAll c (M ++ N) = absorbAll (absorbAll c M) N := List.foldl_append

theorem crc8_eq_absorbAll (M : Message) : crc8 M = absorbAll 0x00 M := resultOf_eq _

theorem crc8_append (M N : Message) : crc8 (M ++ N) = absorbAll (crc8 M) N := by
  rw [crc8_eq_absorbAll, crc8_eq_absorbAll, absorbAll_append]

@[simp] theorem State.crcOut_eq (s : State) : s.crcOut = s.crc := by
  cases h : s.crc <;> simp [State.crcOut, h]

theorem State.zero_eq (s : State) : s.zero = s.crc.map fun c => c == 0x00 := by
  simp [State.zero]; rfl

/-- `step8` reads its operands only through their XOR (R42's ground). -/
theorem step8_eq_of_xor (c b : Byte) : step8 c b = step8 0x00 (c ^^^ b) := by
  simp [step8]

/-- One iteration of the loop is linear over GF(2), "each line of which is linear" (R56). -/
theorem bitStep_xor (v w : Byte) : bitStep (v ^^^ w) = bitStep v ^^^ bitStep w := by
  have key : ∀ a b : Bool, ∀ p q r : Byte,
      (if (a ^^ b) then (p ^^^ q) ^^^ r else p ^^^ q) =
        (if a then p ^^^ r else p) ^^^ (if b then q ^^^ r else q) := by
    intro a b p q r
    cases a <;> cases b <;> simp [BitVec.xor_assoc, BitVec.xor_comm r]
  simpa [bitStep, BitVec.shiftLeft_xor_distrib] using key v.msb w.msb (v <<< 1) (w <<< 1) Config.poly

theorem bitSteps_xor (n : Nat) (v w : Byte) :
    bitSteps n (v ^^^ w) = bitSteps n v ^^^ bitSteps n w := by
  induction n generalizing v w with
  | zero => rfl
  | succ n ih => simp [bitSteps, bitStep_xor, ih]

end Sys2Proof.Machine
end

