-- ==== Sys2Proof/Laws/PerInstr.lean ====
section
/-! SUPPORT. For every command, its word's `op` field is its row's, and the word matches its row and no other (R81). -/

namespace Sys2Proof.Laws

/-- The code of `op` in a command's row of R81. -/
def OpField.rowOp : Instr → Op
  | .nop => 0b00
  | .init => 0b01
  | .update _ => 0b10
  | .start _ => 0b11

/-- The word of `i` holds the code of its row, and a word matches that row (mask 0x300) exactly when it
holds the same code. -/
def OpField.Statement (i : Instr) : Prop :=
  opOf (encode i) = OpField.rowOp i ∧
    ∀ w : Cmd, w &&& 0x300 = encode i &&& 0x300 ↔ opOf w = OpField.rowOp i

theorem OpField.mask_eq_iff (w v : Cmd) : w &&& 0x300 = v &&& 0x300 ↔ opOf w = opOf v := by
  have mask : ∀ u : Cmd, u &&& 0x300 = cmdOf (opOf u) 0 := by
    intro u
    ext i hi
    have : i = 0 ∨ i = 1 ∨ i = 2 ∨ i = 3 ∨ i = 4 ∨ i = 5 ∨ i = 6 ∨ i = 7 ∨ i = 8 ∨ i = 9 := by omega
    rcases this with rfl | rfl | rfl | rfl | rfl | rfl | rfl | rfl | rfl | rfl <;>
      simp [cmdOf, opOf]
  rw [mask, mask]
  constructor
  · intro h; simpa using congrArg opOf h
  · intro h; rw [h]

theorem OpField.nop : OpField.Statement .nop :=
  ⟨opOf_cmdOf _ _, fun w => OpField.mask_eq_iff w _⟩

theorem OpField.init : OpField.Statement .init :=
  ⟨opOf_cmdOf _ _, fun w => OpField.mask_eq_iff w _⟩

theorem OpField.update (din : Byte) : OpField.Statement (.update din) :=
  ⟨opOf_cmdOf _ _, fun w => by rw [OpField.mask_eq_iff]; simp [encode, OpField.rowOp]⟩

theorem OpField.start (din : Byte) : OpField.Statement (.start din) :=
  ⟨opOf_cmdOf _ _, fun w => by rw [OpField.mask_eq_iff]; simp [encode, OpField.rowOp]⟩

end Sys2Proof.Laws
end

