-- ==== Sys2Proof/Laws/Step.lean ====
section
/-! SUPPORT. What the shared operations of a step can do, said once: one interaction from a pending list, the clock edge by its command, sampling, and runs. -/

namespace Sys2Proof.Machine

@[simp] theorem State.nextEvent_cons {s : State} {e : HostEvent} {es : List HostEvent}
    (h : s.pending = e :: es) : s.nextEvent = e := by simp [State.nextEvent, h]

@[simp] theorem State.nextEvent_nil {s : State} (h : s.pending = []) : s.nextEvent = idleEdge := by
  simp [State.nextEvent, h]

theorem clockEdge_reset (op : Op) (din : Byte) (s : State) :
    clockEdge true op din s = .next (s.writeCrc (some 0x00)) := rfl

theorem clockEdge_command (op : Op) (din : Byte) (s : State) :
    clockEdge false op din s = exec (decode (cmdOf op din)) s := rfl

/-- Sampling leaves the block and what is pending as they are, and appends what the port shows. -/
theorem takeSample_frame (port : OutPort) (s : State) :
    (takeSample port s).crc = s.crc ∧ (takeSample port s).pending = s.pending := by
  cases port <;> simp [takeSample, State.recordIfRaised_frame]

theorem takeSample_crcOut_samples (s : State) :
    (takeSample .crcOut s).samples = s.samples ++ [.crcOut s.crcOut] := by
  simp [takeSample, State.recordIfRaised_frame]

theorem takeSample_zero_samples (s : State) :
    (takeSample .zero s).samples = s.samples ++ [.zero s.zero] := by
  simp [takeSample, State.recordIfRaised_frame]

/-- A step with an interaction pending performs it. -/
theorem step_of_pending {s : State} {e : HostEvent} {es : List HostEvent}
    (h : s.pending = e :: es) : step s = performEvent e (s.setPending es) := by
  simp [step, State.nextEvent_cons h, State.dropEvent, h]

/-- A clock edge only writes `crc`, by R51's next-state function. -/
theorem clockEdge_eq (rst : Bool) (op : Op) (din : Byte) (s : State) :
    clockEdge rst op din s = .next (s.writeCrc (nextCrc s.crc rst op din)) := by
  cases rst with
  | true => rfl
  | false =>
    rw [clockEdge_command]
    rcases Op.cases op with rfl | rfl | rfl | rfl <;>
      simp [exec, execNop, execInit, execUpdate, execStart, nextCrc, absorb_eq]

/-- Sampling a port of a defined `crc` leaves the fault record; of `⊥`, it records the model fault. -/
theorem takeSample_fault (port : OutPort) (s : State) :
    (takeSample port s).fault =
      if s.crc = none then some (s.fault.getD .undefinedStateRead) else s.fault := by
  cases port <;> cases h : s.crc <;>
    simp [takeSample, observeCrcOut, observeZero, observed, State.zero_eq, State.recordIfRaised, h]

/-- Everything one interaction can do. -/
theorem performEvent_eq (e : HostEvent) (s : State) : performEvent e s = .next
    (match e with
      | .edge rst op din => s.writeCrc (nextCrc s.crc rst op din)
      | .sample port => takeSample port s
      | .powerCycle => s.losePower) := by
  cases e with
  | edge rst op din => exact clockEdge_eq rst op din s
  | sample port => rfl
  | powerCycle => rfl

/-- The inversion of a step: it was an edge, a sampling or a power cycle. -/
theorem step_cases {s t : State} (h : step s = .next t) :
    (∃ rst op din, s.nextEvent = .edge rst op din ∧
        t = s.dropEvent.writeCrc (nextCrc s.crc rst op din)) ∨
      (∃ port, s.nextEvent = .sample port ∧ t = takeSample port s.dropEvent) ∨
      (s.nextEvent = .powerCycle ∧ t = s.dropEvent.losePower) := by
  rw [step, performEvent_eq] at h
  injection h with h
  cases he : s.nextEvent with
  | edge rst op din => rw [he] at h; exact .inl ⟨rst, op, din, rfl, h.symm⟩
  | sample port => rw [he] at h; exact .inr (.inl ⟨port, rfl, h.symm⟩)
  | powerCycle => rw [he] at h; exact .inr (.inr ⟨rfl, h.symm⟩)

/-- The edge of a word made from its two ports carries those ports. -/
@[simp] theorem wordEdge_cmdOf (op : Op) (din : Byte) :
    wordEdge (cmdOf op din) = .edge false op din := by
  simp [wordEdge]

@[simp] theorem runFor_zero (s : State) : runFor 0 s = .next s := rfl

theorem runFor_succ_of_next {k : Nat} {s t : State} (h : step s = .next t) :
    runFor (k + 1) s = runFor k t := by
  simp only [runFor, Host.Core.run, show Sys2Proof.core.step s = .next t from h]
  rfl

end Sys2Proof.Machine
end

