-- ==== Sys2Proof/Tests/Slice0.lean ====
section
/-! SUPPORT. Small tests. Expected results come from 95_test_vectors.md, from R41's printed table and from the encodings of 30_encoding.md; the vector is named with each. Then, for each statement with hypotheses, a witness that meets them. -/

namespace Sys2Proof.Tests

open Sys2Proof.Machine

/-- A state with this register and this pending, the host having seen nothing. -/
def stateWith (crc : Option Byte) (pending : List HostEvent) : State :=
  { crc := crc, pending := pending, samples := [], fault := none }

/-- The register after a step that answers a next state. -/
def crcOfNext : Host.Outcome State Fault Refusal → Option (Option Byte)
  | .next s => some s.crc
  | .fault _ => none
  | .refused _ => none

/-- The output `zero` after a step that answers a next state. -/
def zeroOfNext : Host.Outcome State Fault Refusal → Option (Option Bool)
  | .next s => some s.zero
  | .fault _ => none
  | .refused _ => none

/-- A state in which the command word `w` is the next edge. -/
def atWord (crc : Option Byte) (w : Nat) : State := (stateWith crc []).withFetchWord 16 w

/-! ### What is ill formed is refused -/

theorem test_wellFormed_word : isCommandWord 0x3FF = true ∧ isCommandWord 0x400 = false := by decide

theorem test_wellFormed_byte : isByteLiteral 255 = true ∧ isByteLiteral 256 = false := by decide

theorem test_wellFormed_addr : isPeripheralAddr 0x7F = true ∧ isPeripheralAddr 0x80 = false := by
  decide

theorem test_decodeWord_refuses : decodeTableWord 16 0x400 = none := by decide

theorem test_frame_refuses : writeMessage16 0x80 0x00 0x0060 = .error .peripheralAddressTooLarge := rfl

/-! ### Words written out from R81's patterns -/

theorem test_decode_nop : decode 0b0001010101 = .nop := by decide
theorem test_decode_init : decode 0b0110100101 = .init := by decide
theorem test_decode_update : decode 0b1001000010 = .update 0x42 := by decide
theorem test_decode_start : decode 0b1101000010 = .start 0x42 := by decide
theorem test_encode_update : encode (.update 0x42) = 0x242 := by decide
theorem test_encode_start : encode (.start 0x42) = 0x342 := by decide

/-! ### Section 2.3, vectors V1 to V17 -/

theorem test_V1_nop_ignores_din : crcOfNext (step (atWord (some 0xC9) 0x055)) = some (some 0xC9) := by
  decide

theorem test_V2_nop_keeps_undefined : crcOfNext (step (atWord none 0x000)) = some none := by decide

theorem test_V3_init : zeroOfNext (step (atWord (some 0x71) 0x100)) = some (some true) := by decide

theorem test_V4_init_from_undefined : crcOfNext (step (atWord none 0x1FF)) = some (some 0x00) := by
  decide

theorem test_V5_update : crcOfNext (step (atWord (some 0xC9) 0x200)) = some (some 0x71) := by decide

theorem test_V10_update_keeps_undefined : crcOfNext (step (atWord none 0x242)) = some none := by decide

theorem test_V11_start : crcOfNext (step (atWord (some 0x55) 0x342)) = some (some 0xC9) := by decide

theorem test_V13_start_zero : zeroOfNext (step (atWord (some 0x9A) 0x300)) = some (some true) := by
  decide

theorem test_V14_reset_wins :
    crcOfNext (step (stateWith (some 0x71) [.edge true 0b10 0x60])) = some (some 0x00) := by decide

theorem test_V15_reset_from_undefined :
    crcOfNext (step (stateWith none [.edge true 0b00 0x00])) = some (some 0x00) := by decide

/-! ### Section 2.1 and 2.2, the byte step and the message function -/

theorem test_step8_corner : step8 0x12 0x34 = 0xF2 ∧ step8 0xF3 0xFF = 0x24 := by decide

set_option maxRecDepth 4000 in
theorem test_crc8_write_F1 : crc8 [0x42, 0x00, 0x60, 0x00] = 0x42 := by decide

set_option maxRecDepth 4000 in
theorem test_crc8_read_F11 : crc8 [0x42, 0x0C, 0x43, 0xFF, 0x9F] = 0xDC := by decide

theorem test_table_rows : tableEntry 0x42 = 0xC9 ∧ tableEntry 0x0C = 0x24 ∧ tableEntry 0xFF = 0xF3 := by
  decide

/-! ### Section 2.4, observation; section 2.5, frames; R86, R87, the assembler -/

theorem test_observe_undefined : observeCrcOut State.powerOn = .error .undefinedStateRead := rfl

theorem test_observe_defined :
    observeCrcOut (stateWith (some 0x42) []) = .ok 0x42 ∧
      observeZero (stateWith (some 0x42) []) = .ok false := ⟨rfl, rfl⟩

set_option maxRecDepth 4000 in
theorem test_writeBytes_F3 : writeBytes16 0x21 0x0A 0xB402 = .ok [0x02, 0xB4, 0x1F] := rfl

set_option maxRecDepth 4000 in
theorem test_read_F16 :
    readRegister32 0x21 0x10 0xFF 0x0F 0x23 0x81 0x85 = .ok 0x81230FFF := rfl

set_option maxRecDepth 4000 in
theorem test_read_corrupted :
    readRegister16 0x21 0x0C 0xFF 0x9F 0xDD = .error .checksumMismatch := rfl

theorem test_asm_start_ascii :
    parseLine ['S', 'T', 'A', 'R', 'T', ' ', quoteMark, '1', quoteMark] = .ok (some (.start 0x31)) := rfl

theorem test_asm_check_comment :
    parseLine ['C', 'H', 'E', 'C', 'K', ' ', '0', 'x', '0', '1', ',', ' ', '7', ' ', ';', 'C'] =
      .ok (some (.check [0x01] 0x07)) := rfl

/-- The reading of log entry 10, not of the spec: a quoted `;` is a byte, and the `;` after it a comment. -/
theorem test_asm_quoted_semicolon :
    parseLine ['U', 'P', 'D', 'A', 'T', 'E', ' ', quoteMark, ';', quoteMark, ';', 'x'] =
      .ok (some (.update 0x3B)) := rfl

theorem test_asm_refuses_256 :
    parseLine ['U', 'P', 'D', 'A', 'T', 'E', ' ', '2', '5', '6'] = .error .notAByte := rfl

theorem test_asm_two_lines :
    parseProgram ['I', 'N', 'I', 'T', '\n', 'R', 'E', 'S', 'E', 'T'] = .ok [.init, .reset] := rfl

/-! ### Witnesses: hypotheses of the statements, met together, clause by clause at the ends of a range -/

theorem witness_DecodeSelectsByMaskAndMatch :
    (0x0FF#10 &&& 0x300 = 0x000) ∧ (0x100#10 &&& 0x300 = 0x100) ∧ (0x1FF#10 &&& 0x300 = 0x100) ∧
      (0x200#10 &&& 0x300 = 0x200) ∧ (0x2FF#10 &&& 0x300 = 0x200) ∧ (0x3FF#10 &&& 0x300 = 0x300) := by
  decide

theorem witness_EveryTenBitNumberIsACommand : (0 : Nat) < 1024 ∧ 1023 < 1024 := by decide

theorem witness_LargerNumbersAreNoCommand : 1024 ≤ 1024 := by decide

theorem witness_DecodeOfEncode : (Instr.start 0xFF).wellFormed = true := by decide

theorem witness_NopHolds :
    (stateWith none [.edge false 0b00 0x55, .powerCycle]).pending =
      [(0x55 : Byte)].map (fun d => HostEvent.edge false 0b00 d) ++ [.powerCycle] := by decide

theorem witness_UpdateAbsorbsOneByte :
    (stateWith (some 0xFF) []).crc = some 0xFF ∧ (stateWith none []).crc = none := by decide

theorem witness_EdgeIsTheNextStateFunction :
    (stateWith none [.edge true 0b11 0x42]).pending = .edge true 0b11 0x42 :: [] := by decide

theorem witness_CommandsChangeOnlyTheRegister :
    exec .nop (stateWith none []) = .next (stateWith none []) := rfl

theorem witness_OnlyTheListedEventsWriteTheRegister :
    step (stateWith (some 0x71) [.powerCycle]) = .next (stateWith none []) := rfl

theorem witness_StepRunsTheDecodedCommand :
    (stateWith (some 0xC9) [.edge false 0b10 0x00]).pending = .edge false 0b10 0x00 :: [] ∧
      decode (cmdOf 0b10 0x00) = .update 0x00 := by decide

theorem witness_PresentedWordRunsNext : 0x3FF < 1024 := by decide

theorem witness_IdleEdgeHolds : State.reset.pending = [] := by decide

theorem witness_ResetWinsOverTheCommand :
    ([(0b10, 0x60)] : List (Op × Byte)) ≠ [] ∧
      (stateWith none [.edge true 0b10 0x60]).pending =
        ([(0b10, 0x60)] : List (Op × Byte)).map (fun p => HostEvent.edge true p.1 p.2) ++ [] := by decide

theorem witness_PowerOnIsUndefinedUntilDefined :
    (∀ p ∈ ([(0b00, 0x00), (0b10, 0x42)] : List (Op × Byte)), p.1 = 0b00 ∨ p.1 = 0b10) ∧
      (false = true ∨ (0b11 : Op) = 0b01 ∨ (0b11 : Op) = 0b11) := by simp

theorem witness_OnlyResetInitStartDefine :
    (stateWith (some 0x00) []).crc ≠ none ∧
      exec (.update 0x00) (stateWith (some 0x00) []) = .next (stateWith (some 0x00) []) ∧
      (stateWith none [.edge false 0b01 0x00]).crc = none ∧
      step (stateWith none [.edge false 0b01 0x00]) = .next (stateWith (some 0x00) []) :=
  ⟨by decide, rfl, rfl, rfl⟩

theorem witness_StepKeepsDefinedForGood :
    (stateWith (some 0x71) [.edge false 0b01 0x00]).isDefinedForGood ∧
      step (stateWith (some 0x71) [.edge false 0b01 0x00]) = .next (stateWith (some 0x00) []) :=
  ⟨by decide, rfl⟩

theorem witness_PowerCycleUndefines :
    (stateWith (some 0x42) [.powerCycle]).pending = .powerCycle :: [] := by decide

theorem witness_ZeroFollowsTheRegister :
    (stateWith (some 0x00) []).crcOut = some 0x00 ∧
      (stateWith none []).crc = (stateWith none [.powerCycle]).crc := by decide

theorem witness_SamplingHasNoSideEffect :
    (stateWith none [.sample .crcOut, .sample .crcOut]).pending =
        .sample .crcOut :: .sample .crcOut :: [] ∧
      (stateWith (some 0x00) [.sample .zero, .sample .zero]).pending =
        .sample .zero :: .sample .zero :: [] := by decide

theorem witness_FaultIsNeverCleared :
    (State.powerOn.recordFault .undefinedStateRead).fault = some .undefinedStateRead ∧
      runFor 1 (State.powerOn.recordFault .undefinedStateRead) =
        .next (State.powerOn.recordFault .undefinedStateRead) := ⟨rfl, rfl⟩

theorem witness_BootDutyKeepsTheRecordClean :
    State.powerOn.fault = none ∧
      keepsBootDuty (none : Option Byte).isSome
        [.edge false 0b00 0x00, .edge false 0b11 0x42, .sample .crcOut] = true ∧
      keepsBootDuty (none : Option Byte).isSome [.sample .zero] = false := by decide

theorem witness_SampleAfterTheEdgeShowsTheNewValue :
    (stateWith none [.edge false 0b11 0x42, .sample .crcOut]).pending =
        .edge false 0b11 0x42 :: .sample .crcOut :: [] ∧
      (stateWith none [.sample .crcOut, .edge false 0b11 0x42]).pending =
        .sample .crcOut :: .edge false 0b11 0x42 :: [] := by decide

theorem witness_EndOfRunObservation :
    State.reset.crc = some 0x00 ∧ State.powerOn.crc = none := by decide

theorem witness_CommandsRealiseTheMessageFunction :
    absorbedBy [.edge false 0b00 0x55, .edge false 0b10 0x0C] = some [0x0C] ∧
      (stateWith none (.edge false 0b11 0x42 :: [.edge false 0b10 0x0C] ++ [])).pending =
        .edge false 0b11 0x42 :: [.edge false 0b10 0x0C] ++ [] ∧
      (stateWith none (.edge false 0b01 0xFF :: [] ++ [])).pending =
        .edge false 0b01 0xFF :: [] ++ [] ∧ absorbedBy [] = some [] := by decide

theorem witness_EdgesTakeEffectInOrder :
    (stateWith none [.edge true 0b00 0x00, .powerCycle]).pending =
      ([(true, 0b00, 0x00)] : List (Bool × Op × Byte)).map (fun p => HostEvent.edge p.1 p.2.1 p.2.2) ++
        [.powerCycle] := by decide

set_option maxRecDepth 4000 in
theorem witness_BlockRefinesTheMessageAbsorbed :
    (stateWith (some 0x42) [.edge false 0b10 0x42]).crcOut =
        (some [0x42, 0x00, 0x60, 0x00] : Option Message).map crc8 ∧
      (stateWith none []).crcOut = (none : Option Message).map crc8 := by decide

theorem witness_SmallMessages : 0x7F ≤ 0x7F ∧ 0x7F ≠ 0 := by decide

set_option maxRecDepth 4000 in
theorem witness_ResidueOfACorrectFrame :
    (stateWith (some 0xDC) []).crcOut = some (crc8 [0x42, 0x0C, 0x43, 0xFF, 0x9F]) := by decide

theorem witness_MismatchIsDetected : (0 : Nat) < 8 ∧ 7 < 8 := by decide

theorem witness_CrcIsLinear :
    ([0x42, 0x00] : Message).length = ([0x00, 0x0A] : Message).length ∧
      ([0x01, 0x07] : Message).length = ([0x42] : Message).length + 1 := by decide

theorem witness_OddErrorsAreDetected :
    ([0x01, 0x00] : Message).length = ([0x42] : Message).length + 1 ∧
      (messageBits [0x01, 0x00]).count true = 1 ∧ (messageBits [0x01, 0x03]).count true % 2 = 1 := by
  decide

theorem witness_ShortBurstsAreDetected :
    ([0x0F, 0xF0] : Message).length = ([0x42] : Message).length + 1 ∧
      messageBits [0x0F, 0xF0] =
        List.replicate 4 false ++ List.replicate 8 true ++ List.replicate 4 false ∧
      (List.replicate 8 true).length ≤ 8 ∧ true ∈ List.replicate 8 true := by decide

theorem witness_NearbyTwoBitErrorsAreDetected :
    ([0x80, 0x01] : Message).length = ([0x42] : Message).length + 1 ∧
      messageBits [0x80, 0x01] =
        List.replicate 0 false ++ [true] ++ List.replicate 14 false ++ [true] ++
          List.replicate 0 false ∧ 14 + 1 < 127 := by decide

theorem witness_ReachOverTheFramesOfTheHost :
    ([0, 0, 0, 0, 0, 0, 0] : Message).length ≤ 7 ∧
      ([0x80, 0, 0, 0, 0, 0, 0, 0x01] : Message).length =
        ([0, 0, 0, 0, 0, 0, 0] : Message).length + 1 ∧
      (messageBits [0x80, 0, 0, 0, 0, 0, 0, 0x01]).count true = 2 := by decide

theorem witness_frames : 0x7F ≤ 0x7F ∧ 0x7F < 0x80 := by decide

theorem witness_HostChecksAgree :
    (stateWith (some 0x00) []).crcOut = some (crc8 []) := by decide

theorem witness_PseudoInstructionsDoAsListed :
    (stateWith none (AsmLine.crc []).events).pending = (AsmLine.crc []).events ++ [] ∧
      (stateWith none (AsmLine.check [0x01] 0x07).events).pending =
        (AsmLine.check [0x01] 0x07).events ++ [] ∧
      (stateWith none (AsmLine.wait 3).events).pending = (AsmLine.wait 3).events ++ [] := by decide

end Sys2Proof.Tests
end

section
/-! SUPPORT. The register and the output `zero` (10_state.md R22, R24): which events define `crc`, and what `zero` shows of it. -/

namespace Sys2Proof.Machine

/-! ### Which events define the register (R22) -/

/-- A command that completes leaves a defined register defined. -/
theorem exec_keeps_defined {i : Instr} {s t : State} (hs : s.crc ≠ none)
    (h : exec i s = .next t) : t.crc ≠ none := by
  cases i with
  | nop => cases h; exact hs
  | init => cases h; simp
  | update din => cases h; simpa using hs
  | start din => cases h; simp

/-- From an undefined register, R51's next-state function answers a byte exactly at reset, INIT and START. -/
theorem nextCrc_none_defined_iff (rst : Bool) (op : Op) (din : Byte) :
    nextCrc none rst op din ≠ none ↔ definesCrc (.edge rst op din) = true := by
  cases rst with
  | true => simp [nextCrc, definesCrc]
  | false => rcases Op.cases op with rfl | rfl | rfl | rfl <;> simp [nextCrc, definesCrc]

/-- No interaction but reset, INIT and START defines an undefined register. -/
theorem crcAfter_none_defined_iff (e : HostEvent) :
    crcAfter none e ≠ none ↔ definesCrc e = true := by
  cases e with
  | edge rst op din => exact nextCrc_none_defined_iff rst op din
  | sample port => simp [crcAfter, definesCrc]
  | powerCycle => simp [crcAfter, definesCrc]

/-- The register after a step is that of the interaction it performed. -/
theorem step_crc_eq_crcAfter {s t : State} (h : step s = .next t) :
    t.crc = crcAfter s.crc s.nextEvent := by
  obtain ⟨rst, op, din, he, rfl⟩ | ⟨port, he, rfl⟩ | ⟨he, rfl⟩ := step_cases h <;> rw [he]
  · rfl
  · exact (takeSample_frame port s.dropEvent).1
  · rfl

/-- Settles O24: commands keep a defined register by their four cases, and a step's register is
`crcAfter` of its event. -/
theorem onlyResetInitStartDefine : Obligations.OnlyResetInitStartDefine := by
  refine ⟨fun i s t => exec_keeps_defined, fun s t hs h => ?_⟩
  rw [step_crc_eq_crcAfter h, hs]
  exact crcAfter_none_defined_iff s.nextEvent

/-! ### The output `zero` (R24) -/

/-- `zero` tests the value on `crc_out`. -/
theorem State.zero_of_crcOut {s : State} {c : Byte} (h : s.crcOut = some c) :
    s.zero = some (decide (c = 0x00)) := by
  rw [State.zero, h]; rfl

/-- `zero` is `⊥` exactly while the register is. -/
theorem State.zero_eq_none_iff (s : State) : s.zero = none ↔ s.crc = none := by
  simp [State.zero_eq]

/-- `zero` is a function of the register alone. -/
theorem State.zero_congr {s t : State} (h : s.crc = t.crc) : s.zero = t.zero := by
  rw [State.zero_eq, State.zero_eq, h]

/-- Settles O29: `zero` is the zero test mapped over the register. -/
theorem zeroFollowsTheRegister : Obligations.ZeroFollowsTheRegister :=
  ⟨fun _ _ => State.zero_of_crcOut, State.zero_eq_none_iff, fun _ _ => State.zero_congr,
    State.zero_of_crcOut (s := State.reset) (c := 0x00) (State.crcOut_eq State.reset)⟩

end Sys2Proof.Machine
end

section
/-! SUPPORT. The host's interface (20_memory.md): commands take effect in the order presented (R38), and the frames and checks of a 16-bit register write and read (R35, R36, R62). -/

namespace Sys2Proof.Machine

/-! ### Commands in order (R38) -/

/-- A step with an edge pending takes it off and writes `crc` by R51's next-state function. -/
theorem step_of_pending_edge {s : State} {rst : Bool} {op : Op} {din : Byte} {es : List HostEvent}
    (h : s.pending = .edge rst op din :: es) :
    step s = .next ((s.setPending es).writeCrc (nextCrc s.crc rst op din)) := by
  rw [step_of_pending h]
  exact clockEdge_eq rst op din (s.setPending es)

/-- Settles O41, by induction on the edges presented: the first step leaves a state from which the rest run. -/
theorem edgesTakeEffectInOrder : Obligations.EdgesTakeEffectInOrder := by
  intro ports rest s hp
  induction ports generalizing s with
  | nil => subst hp; rfl
  | cons p ps ih =>
    rw [List.length_cons, runFor_succ_of_next (step_of_pending_edge hp)]
    exact ih _ rfl

/-! ### The bytes of a frame -/

theorem writeAddressByte_eq (addr : Nat) : writeAddressByte addr = BitVec.ofNat 8 (2 * addr) := by
  rw [writeAddressByte, Nat.shiftLeft_eq, pow_one, mul_comm]

/-- The low bit of `addr << 1` is free, so setting it adds one (R36). -/
theorem readAddressByte_eq (addr : Nat) :
    readAddressByte addr = BitVec.ofNat 8 (2 * addr + 1) := by
  rw [readAddressByte, ← Nat.shiftLeft_add_eq_or_of_lt (by decide), Nat.shiftLeft_eq, pow_one,
    mul_comm]

theorem lowByte_eq (value : BitVec 16) : lowByte value = value.setWidth 8 :=
  (BitVec.setWidth_eq_extractLsb' (by decide)).symm

theorem highByte_eq (value : BitVec 16) : highByte value = (value >>> 8).setWidth 8 := by
  apply BitVec.eq_of_toNat_eq
  simp [highByte]

/-- Two received bytes make `low | (high << 8)` (R36). -/
theorem value16_eq (low high : Byte) :
    value16 low high = low.setWidth 16 ||| (high.setWidth 16 <<< 8) := by
  rw [value16, ← BitVec.setWidth_eq (high ++ low), BitVec.setWidth_append_eq_shiftLeft_setWidth_or,
    BitVec.or_comm]

/-! ### Frames and checked reads -/

/-- An address up to 0x7F is framed (D19). -/
theorem forPeripheral_of_le {α : Type} {addr : Nat} (h : addr ≤ 0x7F) (x : α) :
    forPeripheral addr x = .ok x :=
  if_pos (decide_eq_true h)

/-- A read whose frame is `M` answers its value exactly when the received byte is `crc8 M` (R36, R62). -/
theorem checkedRead_ok {α : Type} (M : Message) (received : Byte) (value : α) :
    checkedRead (.ok M) received value =
      if received = crc8 M then .ok value else .error .checksumMismatch := by
  by_cases h : received = crc8 M
  · simp [checkedRead, mismatchByCompare, h]
  · simp [checkedRead, mismatchByCompare, h, Ne.symm h]

/-- The message of a 16-bit write to an address up to 0x7F (R35). -/
theorem writeMessage16_ok {addr : Nat} (h : addr ≤ 0x7F) (reg : Byte) (value : BitVec 16) :
    writeMessage16 addr reg value =
      .ok [BitVec.ofNat 8 (2 * addr), reg, value.setWidth 8, (value >>> 8).setWidth 8] := by
  rw [writeMessage16, forPeripheral_of_le h, writeAddressByte_eq, lowByte_eq, highByte_eq]

/-- The message of a 16-bit read from an address up to 0x7F (R36). -/
theorem readMessage16_ok {addr : Nat} (h : addr ≤ 0x7F) (reg low high : Byte) :
    readMessage16 addr reg low high =
      .ok [BitVec.ofNat 8 (2 * addr), reg, BitVec.ofNat 8 (2 * addr + 1), low, high] := by
  rw [readMessage16, forPeripheral_of_le h, writeAddressByte_eq, readAddressByte_eq]

/-- Settles O51: the bytes sent are mapped from the message. -/
theorem writeFrame : Obligations.WriteFrame := by
  intro addr reg value h
  refine ⟨writeMessage16_ok h reg value, ?_⟩
  rw [writeBytes16, writeMessage16_ok h, lowByte_eq, highByte_eq]
  rfl

/-- Settles O52: the read is the checked read of its five-byte message. -/
theorem readFrame16 : Obligations.ReadFrame16 := by
  intro addr reg low high received h
  refine ⟨readMessage16_ok h reg low high, ?_⟩
  rw [readRegister16, readMessage16_ok h, checkedRead_ok, value16_eq]

end Sys2Proof.Machine
end

section
/-! SUPPORT. The encoding (30_encoding.md): every ten-bit number is a command (R84), and the pseudo-instructions do what their table says (R87). -/

namespace Sys2Proof.Machine

/-! ### What a word decodes to (R80, R81, R84) -/

/-- A number that fits ten bits is read as the command of its word (R80). -/
theorem decodeWord_of_lt {w : Nat} (h : w < 1024) :
    decodeWord w = .ok (decode (BitVec.ofNat 10 w)) :=
  if_pos (decide_eq_true h)

theorem opOf_toNat (w : Cmd) : (opOf w).toNat = w.toNat / 256 := by
  simp [opOf, Nat.shiftRight_eq_div_pow]
  omega

/-- A word means NOP exactly at code 00 (R81). -/
theorem decode_eq_nop_iff (w : Cmd) : decode w = .nop ↔ opOf w = 0#2 := by
  rcases Op.cases (opOf w) with h | h | h | h <;> simp [decode, h]

/-- A word means INIT exactly at code 01 (R81). -/
theorem decode_eq_init_iff (w : Cmd) : decode w = .init ↔ opOf w = 1#2 := by
  rcases Op.cases (opOf w) with h | h | h | h <;> simp [decode, h]

/-- Every command completes, in every state (R60). -/
theorem exec_completes (i : Instr) (s : State) : ∃ t : State, exec i s = .next t := by
  cases i <;> exact ⟨_, rfl⟩

/-- Settles O2: the command is chosen by the number's quotient by 256, which is the code of `op`. -/
theorem everyTenBitNumberIsACommand : Obligations.EveryTenBitNumberIsACommand := by
  intro w hw
  have hop : (opOf (BitVec.ofNat 10 w)).toNat = w / 256 := by
    rw [opOf_toNat, BitVec.toNat_ofNat, Nat.mod_eq_of_lt hw]
  refine ⟨_, decodeWord_of_lt hw, ?_, ?_, exec_completes _⟩
  · rw [decode_eq_nop_iff, ← BitVec.toNat_inj, hop, BitVec.toNat_ofNat]
    omega
  · rw [decode_eq_init_iff, ← BitVec.toNat_inj, hop, BitVec.toNat_ofNat]
    omega

/-! ### Runs of the command lines -/

@[simp] theorem decode_encode (i : Instr) : decode (encode i) = i := by
  cases i <;> simp [encode]

/-- A step with a command's edge pending executes that command. -/
theorem step_of_pending_commandEdge {s : State} {i : Instr} {es : List HostEvent}
    (h : s.pending = commandEdge i :: es) : step s = exec i (s.setPending es) := by
  rw [step_of_pending h, commandEdge, wordEdge, performEvent, clockEdge_command, cmdOf_opOf_dinOf,
    decode_encode]

/-- Any number of NOP edges only take themselves off what is pending (R47). -/
theorem runFor_nops {s : State} {rest : List HostEvent} (n : Nat)
    (h : s.pending = List.replicate n (commandEdge .nop) ++ rest) :
    runFor n s = .next (s.setPending rest) := by
  induction n generalizing s with
  | zero => subst h; rfl
  | succ n ih =>
    rw [runFor_succ_of_next (step_of_pending_commandEdge h)]
    exact ih rfl

/-- UPDATEs from a defined register absorb their bytes in order (R38, R49). -/
theorem runFor_updates {s : State} {c : Byte} {M : Message} {rest : List HostEvent}
    (hc : s.crc = some c)
    (h : s.pending = M.map (fun b => commandEdge (.update b)) ++ rest) :
    runFor M.length s = .next ((s.setPending rest).writeCrc (some (absorbAll c M))) := by
  induction M generalizing s c with
  | nil => subst h; rw [absorbAll, List.foldl_nil, ← hc]; rfl
  | cons b M ih =>
    rw [List.length_cons, runFor_succ_of_next (step_of_pending_commandEdge h)]
    exact ih (by simp [hc]) rfl

/-- A message presented to the block leaves its CRC in the register, from any state (R52). -/
theorem runFor_presentMessage {s : State} {M : Message} {rest : List HostEvent}
    (h : s.pending = presentMessage M ++ rest) :
    runFor (presentMessage M).length s = .next ((s.setPending rest).writeCrc (some (crc8 M))) := by
  cases M with
  | nil => exact runFor_succ_of_next (step_of_pending_commandEdge h)
  | cons b M =>
    rw [presentMessage, List.length_cons, List.length_map,
      runFor_succ_of_next (step_of_pending_commandEdge h), runFor_updates rfl rfl,
      crc8_eq_absorbAll]
    rfl

/-! ### The zero test of CHECK (R54) -/

/-- No bit is lost in R40's loop: the bit that leaves at the top comes back as bit 0 of the
polynomial. -/
theorem bitStep_eq_zero_iff (v : Byte) : bitStep v = 0#8 ↔ v = 0#8 := by
  refine ⟨fun h => ?_, fun h => by subst h; rfl⟩
  rw [bitStep] at h
  split at h
  · have hbit := congrArg (fun u : Byte => u.getLsbD 0) h
    simp [Config.poly] at hbit
  · next hmsb =>
    rw [BitVec.msb_eq_decide, decide_eq_true_iff] at hmsb
    bv_omega

theorem bitSteps_eq_zero_iff (n : Nat) (v : Byte) : bitSteps n v = 0#8 ↔ v = 0#8 := by
  induction n generalizing v with
  | zero => rfl
  | succ n ih => rw [bitSteps, ih, bitStep_eq_zero_iff]

/-- A byte brings the register to zero exactly when it is the register (R54). -/
theorem step8_eq_zero_iff (c b : Byte) : step8 c b = 0#8 ↔ c = b := by
  rw [step8, bitSteps_eq_zero_iff, BitVec.xor_eq_zero_iff]

/-- A message with one more byte has CRC 0x00 exactly when that byte is the CRC of the rest
(R54). -/
theorem crc8_append_singleton_eq_zero_iff (M : Message) (c : Byte) :
    crc8 (M ++ [c]) = 0#8 ↔ c = crc8 M := by
  rw [crc8_append]
  exact (step8_eq_zero_iff (crc8 M) c).trans eq_comm

/-- Settles O57: CRC and CHECK present their message, and WAIT is a run of NOPs. -/
theorem pseudoInstructionsDoAsListed : Obligations.PseudoInstructionsDoAsListed := by
  intro s rest bs c n
  refine ⟨fun h => ⟨_, runFor_presentMessage h, State.crcOut_eq _, rfl⟩,
    fun h => ⟨_, runFor_presentMessage h, ?_, rfl⟩, runFor_nops n, List.length_replicate⟩
  rw [State.zero_of_crcOut (State.crcOut_eq _), Option.some.injEq, decide_eq_true_iff]
  exact crc8_append_singleton_eq_zero_iff bs c

end Sys2Proof.Machine
end

section
/-! SUPPORT. The byte step, the commands and the message function (40_crc_ops.md): the printed table (R41, R42), what each command does (R47 to R51), and the laws of `crc8` (R52 to R56). -/

namespace Sys2Proof.Machine

/-! ### The byte step and its table (R41, R42, R56) -/

/-- The byte step is linear over XOR, "each line of which is linear" (R56). -/
theorem step8_xor (c₁ c₂ b₁ b₂ : Byte) :
    step8 (c₁ ^^^ c₂) (b₁ ^^^ b₂) = step8 c₁ b₁ ^^^ step8 c₂ b₂ := by
  have regroup : (c₁ ^^^ c₂) ^^^ (b₁ ^^^ b₂) = (c₁ ^^^ b₁) ^^^ (c₂ ^^^ b₂) := by ac_rfl
  rw [step8, regroup, bitSteps_xor, step8, step8]

/-- Different bytes take the register 0x00 to different values: their difference would go to zero. -/
theorem step8_zero_injective : Function.Injective (step8 0x00) := by
  intro v w h
  have hdiff : step8 0x00 (v ^^^ w) = 0#8 := by
    have hxor := step8_xor 0x00 0x00 v w
    rwa [h, BitVec.xor_self, BitVec.xor_self] at hxor
  exact BitVec.xor_eq_zero_iff.mp ((step8_eq_zero_iff _ _).mp hdiff).symm

set_option maxRecDepth 4000 in
/-- The printed table lists the byte step of 0, 1, ..., 255 (R41). -/
theorem crcTable_eq : crcTable = (List.range 256).map fun n => step8 0x00 (BitVec.ofNat 8 n) := by
  decide

/-- The printed entry at `v` is the byte step of `v` (R41). -/
theorem tableEntry_eq (v : Byte) : tableEntry v = step8 0x00 v := by
  simp [tableEntry, crcTable_eq, List.getD_eq_getElem?_getD, List.getElem?_range v.isLt]

/-- R42: the byte step is a look-up at `c ^ b`. -/
theorem step8_eq_tableEntry (c b : Byte) : step8 c b = tableEntry (c ^^^ b) := by
  rw [tableEntry_eq, ← step8_eq_of_xor]

theorem tableEntry_eq_zero_iff (v : Byte) : tableEntry v = 0#8 ↔ v = 0#8 := by
  rw [tableEntry_eq]
  exact (step8_eq_zero_iff 0x00 v).trans eq_comm

theorem mem_crcTable (v : Byte) : v ∈ crcTable := by
  obtain ⟨b, hb⟩ := Finite.surjective_of_injective step8_zero_injective v
  rw [crcTable_eq, List.mem_map]
  exact ⟨b.toNat, List.mem_range.mpr b.isLt, by rw [BitVec.ofNat_toNat, BitVec.setWidth_eq, hb]⟩

theorem crcTable_nodup : crcTable.Nodup := by
  rw [crcTable_eq]
  refine List.Nodup.map_on (fun m hm n hn h => ?_) List.nodup_range
  have hbyte := congrArg BitVec.toNat (step8_zero_injective h)
  rw [List.mem_range] at hm hn
  simpa [Nat.mod_eq_of_lt hm, Nat.mod_eq_of_lt hn] using hbyte

/-- Settles O36: the table lists the byte step, which is injective on bytes. -/
theorem tableIsTheByteStep : Obligations.TableIsTheByteStep :=
  ⟨tableEntry_eq, by rw [crcTable_eq]; simp, mem_crcTable, crcTable_nodup, tableEntry_eq_zero_iff,
    rfl, step8_eq_tableEntry⟩

/-! ### Single commands and edges (R43, R47 to R51) -/

/-- Without reset, an edge runs NOP at code 00, INIT at 01, UPDATE at 10 and START at 11 (R81). -/
theorem clockEdge_nop (din : Byte) (s : State) : clockEdge false 0b00 din s = .next s :=
  clockEdge_eq false 0b00 din s

theorem clockEdge_init (din : Byte) (s : State) :
    clockEdge false 0b01 din s = .next (s.writeCrc (some 0x00)) :=
  clockEdge_eq false 0b01 din s

theorem clockEdge_update (din : Byte) (s : State) :
    clockEdge false 0b10 din s = exec (.update din) s := by
  rw [clockEdge_command]
  exact congrArg (exec · s) (decode_cmdOf_update din)

theorem clockEdge_start (din : Byte) (s : State) :
    clockEdge false 0b11 din s = exec (.start din) s := by
  rw [clockEdge_command]
  exact congrArg (exec · s) (decode_cmdOf_start din)

/-- UPDATE from a defined register (R49). -/
theorem exec_update_of_crc {s : State} {c : Byte} (h : s.crc = some c) (din : Byte) :
    exec (.update din) s = .next (s.writeCrc (some (step8 c din))) := by
  rw [exec, execUpdate, h, Option.map_some, absorb_eq]

/-- UPDATE from the undefined register leaves the state (R49). -/
theorem exec_update_of_undefined {s : State} (h : s.crc = none) (din : Byte) :
    exec (.update din) s = .next s := by
  rw [exec, execUpdate, h, Option.map_none, ← h, State.writeCrc_self]

/-- A register just written shows `zero = 1` exactly for 0x00 (R24). -/
theorem State.zero_writeCrc_iff (s : State) (c : Byte) :
    (s.writeCrc (some c)).zero = some true ↔ c = 0x00 := by
  rw [State.zero_of_crcOut (State.crcOut_eq _), Option.some.injEq, decide_eq_true_iff]

/-- A register that has just absorbed `b` shows `zero = 1` exactly when `b` was its value (R49). -/
theorem State.zero_writeCrc_step8_iff (s : State) (c b : Byte) :
    (s.writeCrc (some (step8 c b))).zero = some true ↔ b = c := by
  rw [State.zero_writeCrc_iff]
  exact (step8_eq_zero_iff c b).trans eq_comm

/-- NOP edges only take themselves off what is pending, whatever `din` they carry (R47). -/
theorem runFor_nopEdges {s : State} {dins : List Byte} {rest : List HostEvent}
    (h : s.pending = dins.map (fun d => HostEvent.edge false 0b00 d) ++ rest) :
    runFor dins.length s = .next (s.setPending rest) := by
  induction dins generalizing s with
  | nil => subst h; rfl
  | cons d dins ih =>
    rw [List.length_cons, runFor_succ_of_next (step_of_pending_edge h)]
    exact ih rfl

/-- Settles O8: NOP writes the register back, and a run of NOP edges is an induction on them. -/
theorem nopHolds : Obligations.NopHolds :=
  fun s => ⟨rfl, fun din => clockEdge_nop din s, fun _ _ => runFor_nopEdges⟩

/-- Settles O9: INIT writes 0x00, which is the CRC of the empty message. -/
theorem initRestarts : Obligations.InitRestarts := fun s =>
  ⟨s.writeCrc (some 0x00), rfl, rfl, fun din => clockEdge_init din s,
    (State.zero_writeCrc_iff s 0x00).mpr rfl, State.crcOut_eq _, rfl, rfl⟩

/-- Settles O10: from a defined register UPDATE is the byte step, from the undefined one it holds. -/
theorem updateAbsorbsOneByte : Obligations.UpdateAbsorbsOneByte := by
  intro din s
  refine ⟨clockEdge_update din s, fun c hc => ?_, fun hc => ?_, rfl,
    (step8_eq_zero_iff din din).mpr rfl, ?_, rfl, rfl, rfl⟩
  · exact ⟨_, exec_update_of_crc hc din, rfl, step8_eq_tableEntry c din,
      State.zero_writeCrc_step8_iff s c din⟩
  · refine ⟨exec_update_of_undefined hc din, (State.zero_eq_none_iff s).mpr hc, ?_⟩
    rw [observeCrcOut, State.crcOut_eq, hc, observed]
  · exact (tableEntry_eq din).symm

/-- Settles O11: START is the byte step from 0x00, which is what INIT leaves for UPDATE. -/
theorem startBeginsAMessage : Obligations.StartBeginsAMessage := fun din s =>
  ⟨clockEdge_start din s,
    ⟨_, rfl, rfl, (tableEntry_eq din).symm, State.zero_writeCrc_step8_iff s 0x00 din⟩,
    rfl, ⟨_, rfl, rfl⟩, rfl⟩

/-- Settles O12: the step takes the edge off and writes what R51's function gives. -/
theorem edgeIsTheNextStateFunction : Obligations.EdgeIsTheNextStateFunction :=
  fun _ _ _ _ _ => step_of_pending_edge

/-- Settles O28: both constants of the output function are idle. -/
theorem resultIsTheRegister : Obligations.ResultIsTheRegister :=
  ⟨fun c => ⟨rfl, resultOf_eq c⟩, State.crcOut_eq⟩

/-! ### The message function and its laws (R44, R52 to R56) -/

theorem absorbAll_cons (c b : Byte) (M : Message) :
    absorbAll c (b :: M) = absorbAll (step8 c b) M := rfl

set_option maxRecDepth 4000 in
/-- Settles O38: the definition, and its value along the check string. -/
theorem messageFunction : Obligations.MessageFunction :=
  ⟨fun _ => rfl, by decide, by decide⟩

/-- A leading 0x00 byte leaves the register at 0x00 (R53). -/
theorem crc8_zero_cons (M : Message) : crc8 (0x00 :: M) = crc8 M := rfl

theorem crc8_replicate_zero_append (n : Nat) (M : Message) :
    crc8 (List.replicate n 0x00 ++ M) = crc8 M := by
  induction n with
  | zero => rfl
  | succ n ih => rw [List.replicate_succ, List.cons_append, crc8_zero_cons, ih]

/-- Twice a seven-bit address other than 0 still fits the byte, so it is not 0x00 (R35, R53). -/
theorem writeAddressByte_ne_zero {addr : Nat} (hle : addr ≤ 0x7F) (hne : addr ≠ 0) :
    writeAddressByte addr ≠ 0x00 := by
  rw [writeAddressByte_eq]
  bv_omega

theorem crc8_singleton (b : Byte) : crc8 [b] = tableEntry b := by
  rw [crc8_eq_absorbAll, absorbAll_cons, tableEntry_eq]
  rfl

/-- Settles O43: leading zero bytes by induction on how many there are. -/
theorem smallMessages : Obligations.SmallMessages :=
  ⟨rfl, crc8_singleton, crc8_zero_cons, crc8_replicate_zero_append,
    fun _ => writeAddressByte_ne_zero⟩

/-- One more byte on a message is a look-up at its difference from the CRC so far (R55). -/
theorem crc8_append_singleton (M : Message) (c : Byte) :
    crc8 (M ++ [c]) = tableEntry (crc8 M ^^^ c) := by
  rw [crc8_append, ← step8_eq_tableEntry]
  rfl

theorem crc8_withCrc (M : Message) : crc8 (withCrc M) = 0x00 :=
  (crc8_append_singleton_eq_zero_iff M (crc8 M)).mpr rfl

/-- Settles O44: the residue is zero for the right byte, and UPDATE shows it on `zero`. -/
theorem residueOfACorrectFrame : Obligations.ResidueOfACorrectFrame := by
  refine ⟨crc8_withCrc, fun M c s hs => ?_⟩
  rw [State.crcOut_eq] at hs
  exact ⟨_, exec_update_of_crc hs c, State.zero_writeCrc_step8_iff s (crc8 M) c⟩

/-- The received byte that differs from the CRC by `d` leaves the residue `T[d]` (R55). -/
theorem crc8_append_flipped (M : Message) (d : Byte) :
    crc8 (M ++ [crc8 M ^^^ d]) = tableEntry d := by
  rw [crc8_append_singleton, ← BitVec.xor_assoc, BitVec.xor_self, BitVec.zero_xor]

theorem one_shiftLeft_ne_zero {i : Nat} (h : i < 8) : 0x01#8 <<< i ≠ 0#8 := by
  revert i; decide

/-- Settles O45: the residue is `T` of the difference, and `T` is zero only at zero. -/
theorem mismatchIsDetected : Obligations.MismatchIsDetected :=
  ⟨fun M c => ⟨crc8_append_singleton M c, crc8_append_singleton_eq_zero_iff M c⟩,
    fun M _ hi => ⟨crc8_append_flipped M _,
      (tableEntry_eq_zero_iff _).not.mpr (one_shiftLeft_ne_zero hi)⟩,
    by decide⟩

/-- Absorbing two messages of equal length together is absorbing each (R56). -/
theorem absorbAll_xorMessages (c d : Byte) {M N : Message} (h : M.length = N.length) :
    absorbAll (c ^^^ d) (xorMessages M N) = absorbAll c M ^^^ absorbAll d N := by
  induction M generalizing c d N with
  | nil =>
    obtain rfl := List.length_eq_zero_iff.mp h.symm
    rfl
  | cons a M ih =>
    obtain ⟨b, N, rfl⟩ := List.exists_cons_of_length_eq_add_one h.symm
    have htail := ih (step8 c a) (step8 d b) (Nat.succ.inj h)
    rwa [← step8_xor] at htail

theorem crc8_xorMessages {M N : Message} (h : M.length = N.length) :
    crc8 (xorMessages M N) = crc8 M ^^^ crc8 N := by
  simp only [crc8_eq_absorbAll]
  exact absorbAll_xorMessages 0x00 0x00 h

/-- A corrupted frame has the CRC of the corruption, its own being 0x00 (R54, R56). -/
theorem crc8_corrupted {M E : Message} (h : E.length = M.length + 1) :
    crc8 (xorMessages (withCrc M) E) = crc8 E := by
  have hlen : (withCrc M).length = E.length := by rw [h, withCrc, List.length_append]; rfl
  rw [crc8_xorMessages hlen, crc8_withCrc]
  exact BitVec.zero_xor

theorem detects_iff {M E : Message} (h : E.length = M.length + 1) :
    detects M E ↔ crc8 E ≠ 0x00 := by
  rw [detects, crc8_corrupted h]

/-- Settles O46: linearity of one byte step, lifted to messages and applied to a frame. -/
theorem crcIsLinear : Obligations.CrcIsLinear :=
  ⟨step8_xor, fun _ _ => crc8_xorMessages, fun _ _ h => (detects_iff h).not.trans not_not⟩

/-! ### A message as commands (R52) -/

/-- A stretch that absorbs a message begins with a NOP edge, the rest absorbing the message, or with an
UPDATE edge of its first byte, the rest absorbing the other bytes. -/
theorem absorbedBy_cons_cases {e : HostEvent} {es : List HostEvent} {M : Message}
    (h : absorbedBy (e :: es) = some M) :
    (∃ din, e = .edge false 0b00 din ∧ absorbedBy es = some M) ∨
      ∃ din N, e = .edge false 0b10 din ∧ absorbedBy es = some N ∧ M = din :: N := by
  cases e with
  | sample port => cases h
  | powerCycle => cases h
  | edge rst op din =>
    cases rst with
    | true => cases h
    | false =>
      rcases Op.cases op with rfl | rfl | rfl | rfl
      · exact .inl ⟨din, rfl, h⟩
      · cases h
      · obtain ⟨N, hN, rfl⟩ := Option.map_eq_some_iff.mp h
        exact .inr ⟨din, N, rfl, hN, rfl⟩
      · cases h

/-- A stretch of UPDATEs and NOPs absorbs its bytes into a defined register (R52). -/
theorem runFor_of_absorbedBy {s : State} {es rest : List HostEvent} {M : Message} {c : Byte}
    (hM : absorbedBy es = some M) (hc : s.crc = some c) (h : s.pending = es ++ rest) :
    runFor es.length s = .next ((s.setPending rest).writeCrc (some (absorbAll c M))) := by
  induction es generalizing s M c with
  | nil =>
    cases hM
    subst h
    rw [absorbAll, List.foldl_nil, ← hc]
    rfl
  | cons e es ih =>
    obtain ⟨din, rfl, htail⟩ | ⟨din, N, rfl, htail, rfl⟩ := absorbedBy_cons_cases hM <;>
      rw [List.length_cons, runFor_succ_of_next (step_of_pending_edge h)]
    · exact ih htail hc rfl
    · exact ih (c := step8 c din) htail (by rw [hc]; rfl) rfl

/-- The same after one edge that begins a message by defining the register (R52). -/
theorem runFor_of_begun {s : State} {es rest : List HostEvent} {M : Message} {c : Byte}
    {op : Op} {din : Byte} (hM : absorbedBy es = some M) (hc : nextCrc s.crc false op din = some c)
    (h : s.pending = .edge false op din :: es ++ rest) :
    runFor (es.length + 1) s = .next ((s.setPending rest).writeCrc (some (absorbAll c M))) := by
  rw [runFor_succ_of_next (step_of_pending_edge h)]
  exact runFor_of_absorbedBy hM hc rfl

theorem absorbedBy_commandEdge_update_cons (b : Byte) (es : List HostEvent) :
    absorbedBy (commandEdge (.update b) :: es) = (absorbedBy es).map (b :: ·) := by
  rw [commandEdge, encode, wordEdge_cmdOf]
  rfl

theorem absorbedBy_updates (M : Message) :
    absorbedBy (M.map fun b => commandEdge (.update b)) = some M := by
  induction M with
  | nil => rfl
  | cons b M ih => rw [List.map_cons, absorbedBy_commandEdge_update_cons, ih, Option.map_some]

/-- Settles O40: START and INIT define the register, and the stretch absorbs the rest into it. -/
theorem commandsRealiseTheMessageFunction : Obligations.CommandsRealiseTheMessageFunction := by
  intro s es rest M b d hM
  refine ⟨fun h => ⟨_, runFor_of_begun hM rfl h, ?_, rfl⟩,
    fun h => ⟨_, runFor_of_begun hM rfl h, ?_, rfl⟩, ?_, ?_, absorbedBy_updates M⟩
  · rw [State.crcOut_eq, crc8_eq_absorbAll]; rfl
  · rw [State.crcOut_eq, crc8_eq_absorbAll]; rfl
  · simp [presentMessage]
  · simp [presentMessage]

end Sys2Proof.Machine
end

section
/-! SUPPORT. The polynomial view (40_crc_ops.md R46): the byte step and the message function are remainders modulo `G(x)`. -/

namespace Sys2Proof.Machine

open Polynomial

/-- Addition of bytes over GF(2) is XOR. -/
theorem bytePoly_xor (a b : Byte) : bytePoly (a ^^^ b) = bytePoly a + bytePoly b := by
  rw [bytePoly, bytePoly, bytePoly, ← Finset.sum_add_distrib]
  refine Finset.sum_congr rfl fun j _ => ?_
  rw [BitVec.getLsbD_xor]
  cases a.getLsbD j <;> cases b.getLsbD j <;> simp [CharTwo.add_self_eq_zero]

/-- A left shift multiplies by `x`, up to the bit it loses at the top. -/
theorem bytePoly_shiftLeft_one (v : Byte) :
    bytePoly (v <<< 1) + (if v.msb then X ^ 8 else 0) = bytePoly v * X := by
  have hmul : bytePoly v * X = ∑ j ∈ Finset.range 8, if v.getLsbD j then X ^ (j + 1) else 0 := by
    rw [bytePoly, Finset.sum_mul]
    refine Finset.sum_congr rfl fun j _ => ?_
    rw [ite_mul, zero_mul, pow_succ]
  have hlow : bytePoly (v <<< 1) = ∑ j ∈ Finset.range 7, if v.getLsbD j then X ^ (j + 1) else 0 := by
    rw [bytePoly, Finset.sum_range_succ']
    simp only [BitVec.getLsbD_shiftLeft]
    refine (add_eq_left.mpr (by simp)).trans (Finset.sum_congr rfl fun j hj => ?_)
    rw [Finset.mem_range] at hj
    simp [show j + 1 < 8 by omega]
  rw [hmul, hlow, BitVec.msb_eq_getLsbD_last]
  exact (Finset.sum_range_succ _ 7).symm

theorem bytePoly_poly : bytePoly Config.poly = X ^ 2 + X + 1 := by
  simp [bytePoly, Config.poly, Finset.sum_range_succ]
  ring

/-- One iteration of R40's loop multiplies by `x` and takes `G(x)` off where the top bit is lost. -/
theorem bytePoly_bitStep (v : Byte) :
    bytePoly v * X = bytePoly (bitStep v) + if v.msb then generatorPoly else 0 := by
  rw [← bytePoly_shiftLeft_one, bitStep]
  cases v.msb with
  | false => rfl
  | true =>
    have hgen : generatorPoly = X ^ 8 + bytePoly Config.poly := by
      rw [bytePoly_poly, generatorPoly]; ring
    simp only [if_true]
    rw [bytePoly_xor, hgen, add_add_add_comm, CharTwo.add_self_eq_zero, add_zero]

theorem generatorPoly_monic : generatorPoly.Monic := by
  unfold generatorPoly; monicity!

theorem degree_generatorPoly : generatorPoly.degree = 8 := by
  unfold generatorPoly; compute_degree!

theorem degree_bytePoly_lt (b : Byte) : (bytePoly b).degree < generatorPoly.degree := by
  rw [degree_generatorPoly]
  refine (degree_sum_le _ _).trans_lt ((Finset.sup_lt_iff (WithBot.bot_lt_coe 8)).mpr fun j hj => ?_)
  split
  · rw [degree_X_pow]
    exact Nat.cast_lt.mpr (Finset.mem_range.mp hj)
  · rw [degree_zero]; exact WithBot.bot_lt_coe 8

/-- A polynomial over GF(2) modulo `G(x)`. -/
noncomputable abbrev modGenerator : (ZMod 2)[X] →+* AdjoinRoot generatorPoly :=
  AdjoinRoot.mk generatorPoly

theorem modGenerator_eq_iff {p q : (ZMod 2)[X]} :
    modGenerator p = modGenerator q ↔ generatorPoly ∣ p - q :=
  AdjoinRoot.mk_eq_mk

/-- A byte that is congruent to `p` modulo `G(x)` is the remainder of `p`. -/
theorem bytePoly_eq_modByMonic {b : Byte} {p : (ZMod 2)[X]}
    (h : modGenerator p = modGenerator (bytePoly b)) :
    bytePoly b = p %ₘ generatorPoly := by
  rw [modByMonic_eq_of_dvd_sub generatorPoly_monic (modGenerator_eq_iff.mp h)]
  exact ((modByMonic_eq_self_iff generatorPoly_monic).mpr (degree_bytePoly_lt b)).symm

/-- `n` iterations of the loop multiply by `x ^ n` modulo `G(x)`. -/
theorem modGenerator_bytePoly_bitSteps (n : Nat) (v : Byte) :
    modGenerator (bytePoly (bitSteps n v)) = modGenerator (bytePoly v * X ^ n) := by
  induction n generalizing v with
  | zero => rw [bitSteps, pow_zero, mul_one]
  | succ n ih =>
    have hstep : modGenerator (bytePoly (bitStep v)) = modGenerator (bytePoly v * X) := by
      rw [bytePoly_bitStep]
      cases v.msb <;> simp
    rw [bitSteps, ih, pow_succ', ← mul_assoc, map_mul, hstep, ← map_mul]

theorem modGenerator_bytePoly_step8 (c b : Byte) :
    modGenerator (bytePoly (step8 c b)) = modGenerator (bytePoly (c ^^^ b) * X ^ 8) := by
  rw [step8, modGenerator_bytePoly_bitSteps]

/-- Absorbing a message from the value `c` is reducing `c` placed before it, times `x ^ 8`. -/
theorem modGenerator_bytePoly_absorbAll (c : Byte) (M : Message) :
    modGenerator (bytePoly (absorbAll c M)) =
      modGenerator (bytePoly c * X ^ (8 * M.length) + messagePoly M * X ^ 8) := by
  induction M generalizing c with
  | nil => simp [absorbAll, messagePoly]
  | cons b M ih =>
    have hexpand : bytePoly c * X ^ (8 * (b :: M).length) + messagePoly (b :: M) * X ^ 8 =
        bytePoly (c ^^^ b) * X ^ 8 * X ^ (8 * M.length) + messagePoly M * X ^ 8 := by
      rw [bytePoly_xor, messagePoly, List.length_cons]
      ring
    rw [absorbAll_cons, ih, hexpand, map_add, map_mul, modGenerator_bytePoly_step8, ← map_mul,
      ← map_add]

theorem bytePoly_zero : bytePoly 0x00 = 0 := by simp [bytePoly]

/-- Settles O39: both are congruent to the product with `x ^ 8`, and a byte is its own remainder. -/
theorem crcIsThePolynomialRemainder : Obligations.CrcIsThePolynomialRemainder := by
  refine ⟨fun c b => bytePoly_eq_modByMonic (modGenerator_bytePoly_step8 c b).symm,
    fun M => bytePoly_eq_modByMonic ?_⟩
  rw [crc8_eq_absorbAll, modGenerator_bytePoly_absorbAll, bytePoly_zero, zero_mul, zero_add]

end Sys2Proof.Machine
end

section
/-! SUPPORT. Exceptions (60_exceptions.md R60, R64): no edge and no step traps, and the model fault is the only fault there is. -/

namespace Sys2Proof.Machine

/-- Every rising edge completes, reset or command (R51, R60). -/
theorem clockEdge_completes (rst : Bool) (op : Op) (din : Byte) (s : State) :
    ∃ t : State, clockEdge rst op din s = .next t :=
  ⟨_, clockEdge_eq rst op din s⟩

/-- Every step completes: edges, samplings and power cycles all do (R60). -/
theorem step_completes (s : State) : ∃ t : State, step s = .next t :=
  ⟨_, performEvent_eq s.nextEvent s.dropEvent⟩

/-- A step has no fault outcome; `UndefinedStateRead` is recorded in the state instead (R60, R64). -/
theorem step_ne_fault (s : State) (f : Fault) : step s ≠ .fault f := by
  obtain ⟨t, ht⟩ := step_completes s
  rw [ht]
  nofun

/-- The model fault of R64 is the only one. -/
theorem Fault.eq_undefinedStateRead (f : Fault) : f = .undefinedStateRead := by
  cases f; rfl

/-- Settles O19: commands and edges answer a next state, so the clause on a step that faults holds because
no step does. -/
theorem noCommandTraps : Obligations.NoCommandTraps :=
  ⟨exec_completes, clockEdge_completes, fun s f h => absurd h (step_ne_fault s f),
    Fault.eq_undefinedStateRead⟩

end Sys2Proof.Machine
end

section
/-! SUPPORT. Reset and power-on (70_reset_and_hazards.md R70, R71): runs of edges that keep the register, reset edges at 0x00 and NOPs and UPDATEs at `⊥` among them. -/

namespace Sys2Proof.Machine

/-- Edges that R51's next-state function answers with the register as it is only take themselves off what
is pending. -/
theorem runFor_edges_keeping_crc {s : State} {rst : Bool} {ports : List (Op × Byte)}
    {rest : List HostEvent} (hkeep : ∀ p ∈ ports, nextCrc s.crc rst p.1 p.2 = s.crc)
    (h : s.pending = ports.map (fun p => HostEvent.edge rst p.1 p.2) ++ rest) :
    runFor ports.length s = .next (s.setPending rest) := by
  induction ports generalizing s with
  | nil => subst h; rfl
  | cons p ps ih =>
    obtain ⟨hp, hps⟩ := List.forall_mem_cons.mp hkeep
    rw [List.length_cons, runFor_succ_of_next (step_of_pending_edge h), hp]
    exact ih hps rfl

/-! ### Reset (R70, R83) -/

/-- One or more reset edges leave what one leaves: the first writes 0x00 and the others keep it. -/
theorem runFor_resetEdges {s : State} {ports : List (Op × Byte)} {rest : List HostEvent}
    (hne : ports ≠ []) (h : s.pending = ports.map (fun p => HostEvent.edge true p.1 p.2) ++ rest) :
    runFor ports.length s = .next ((s.setPending rest).writeCrc (some 0x00)) := by
  cases ports with
  | nil => exact absurd rfl hne
  | cons p ps =>
    rw [List.length_cons, runFor_succ_of_next (step_of_pending_edge h)]
    exact runFor_edges_keeping_crc (fun _ _ => rfl) rfl

/-- After a reset, UPDATE begins a message as START would (R70). -/
theorem exec_update_after_reset (s : State) (b : Byte) :
    exec (.update b) (s.writeCrc (some 0x00)) = exec (.start b) (s.writeCrc (some 0x00)) :=
  exec_update_of_crc (State.writeCrc_crc s _) b

/-- Settles O21: a reset edge writes 0x00, and the edges that hold `rst` find it there. -/
theorem resetWinsOverTheCommand : Obligations.ResetWinsOverTheCommand := fun op din s =>
  ⟨s.writeCrc (some 0x00), clockEdge_reset op din s, rfl, State.crcOut_eq _,
    (State.zero_writeCrc_iff s 0x00).mpr rfl, exec_update_after_reset s,
    fun _ _ => runFor_resetEdges⟩

/-! ### Power-on (R71) -/

/-- NOP and UPDATE keep `⊥`. -/
theorem nextCrc_none_of_nop_or_update {op : Op} (h : op = 0b00 ∨ op = 0b10) (din : Byte) :
    nextCrc none false op din = none := by
  rcases h with rfl | rfl <;> rfl

theorem definesCrc_edge_iff (rst : Bool) (op : Op) (din : Byte) :
    definesCrc (.edge rst op din) = true ↔ rst = true ∨ op = 0b01 ∨ op = 0b11 := by
  simp [definesCrc, or_assoc]

theorem observeCrcOut_of_undefined {s : State} (h : s.crc = none) :
    observeCrcOut s = .error .undefinedStateRead := by
  rw [observeCrcOut, State.crcOut_eq, h, observed]

theorem observeZero_of_undefined {s : State} (h : s.crc = none) :
    observeZero s = .error .undefinedStateRead := by
  rw [observeZero, (State.zero_eq_none_iff s).mpr h, observed]

/-- Settles O23: the NOPs and UPDATEs only use themselves up, so the last edge meets `⊥` and defines it. -/
theorem powerOnIsUndefinedUntilDefined : Obligations.PowerOnIsUndefinedUntilDefined := by
  refine ⟨rfl, fun ports rst op din hports hdef => ?_⟩
  have hkeep : ∀ p ∈ ports, nextCrc State.powerOn.crc false p.1 p.2 = State.powerOn.crc :=
    fun p hp => nextCrc_none_of_nop_or_update (hports p hp) p.2
  exact ⟨_, _, runFor_edges_keeping_crc hkeep rfl, rfl, observeCrcOut_of_undefined rfl,
    observeZero_of_undefined rfl, step_of_pending_edge rfl,
    (nextCrc_none_defined_iff rst op din).mpr ((definesCrc_edge_iff rst op din).mpr hdef)⟩

end Sys2Proof.Machine
end

section
/-! SUPPORT. The step and its runs (10_state.md, 60_exceptions.md, 70_reset_and_hazards.md): what a step leaves of each field, and the invariants (R22, R64, R72) and the refinement (R73, R75) that hold along every run. -/

namespace Sys2Proof.Machine

/-! ### What a step does to each field -/

/-- A step takes its interaction off what is pending. -/
theorem step_pending {s t : State} (h : step s = .next t) : t.pending = s.pending.tail := by
  obtain ⟨rst, op, din, -, rfl⟩ | ⟨port, -, rfl⟩ | ⟨-, rfl⟩ := step_cases h
  · rfl
  · exact (takeSample_frame port s.dropEvent).2
  · rfl

/-- The fault record after one interaction: a sampling of `⊥` records the model fault, unless one is
recorded already (R64). -/
def faultAfter (crc : Option Byte) (fault : Option Fault) : HostEvent → Option Fault
  | .sample _ => if crc = none then some (fault.getD .undefinedStateRead) else fault
  | .edge _ _ _ => fault
  | .powerCycle => fault

/-- The fault record after a step is that of the interaction it performed. -/
theorem step_fault_eq_faultAfter {s t : State} (h : step s = .next t) :
    t.fault = faultAfter s.crc s.fault s.nextEvent := by
  obtain ⟨rst, op, din, he, rfl⟩ | ⟨port, he, rfl⟩ | ⟨he, rfl⟩ := step_cases h <;> rw [he]
  · rfl
  · exact takeSample_fault port s.dropEvent
  · rfl

/-- A step with an interaction pending completes, takes it off and gives the register its value. -/
theorem step_of_pending_completes {s : State} {e : HostEvent} {es : List HostEvent}
    (h : s.pending = e :: es) :
    ∃ t : State, step s = .next t ∧ t.pending = es ∧ t.crc = crcAfter s.crc e := by
  obtain ⟨t, ht⟩ := step_completes s
  refine ⟨t, ht, ?_, ?_⟩
  · rw [step_pending ht, h, List.tail_cons]
  · rw [step_crc_eq_crcAfter ht, State.nextEvent_cons h]

/-! ### What holds along a run -/

/-- What every step keeps holds after any run. -/
theorem runFor_keeps {P : State → Prop} (hstep : ∀ s t : State, P s → step s = .next t → P t)
    {k : Nat} {s t : State} (hs : P s) (h : runFor k s = .next t) : P t := by
  induction k generalizing s with
  | zero => cases h; exact hs
  | succ k ih =>
    obtain ⟨u, hu⟩ := step_completes s
    rw [runFor_succ_of_next hu] at h
    exact ih (hstep s u hs hu) h

/-- Every run completes, since every step does (R60). -/
theorem runFor_completes (k : Nat) (s : State) : ∃ t : State, runFor k s = .next t := by
  induction k generalizing s with
  | zero => exact ⟨s, rfl⟩
  | succ k ih =>
    obtain ⟨u, hu⟩ := step_completes s
    rw [runFor_succ_of_next hu]
    exact ih u

/-- Settles O20: whatever the interaction, performing it answers a next state. -/
theorem everyStepCompletes : Obligations.EveryStepCompletes := step_completes

/-! ### The fault record is never cleared (R64) -/

/-- A recorded fault is kept by every interaction. -/
theorem faultAfter_some (crc : Option Byte) (f : Fault) (e : HostEvent) :
    faultAfter crc (some f) e = some f := by
  cases e with
  | edge rst op din => rfl
  | sample port => exact ite_self _
  | powerCycle => rfl

/-- Settles O32: one interaction keeps a recorded fault, and so does a run. -/
theorem faultIsNeverCleared : Obligations.FaultIsNeverCleared := fun _ _ _ f hs h =>
  runFor_keeps (P := fun s => s.fault = some f)
    (fun s t hf ht => by rw [step_fault_eq_faultAfter ht, hf, faultAfter_some]) hs h

/-! ### Where the register is defined (R22, R72) -/

/-- Whether the register is defined after an interaction depends on whether it was before. -/
theorem isSome_crcAfter (crc : Option Byte) (e : HostEvent) :
    (crcAfter crc e).isSome = definedAfter crc.isSome e := by
  cases e with
  | powerCycle => rfl
  | sample port => simp [crcAfter, definedAfter, definesCrc]
  | edge rst op din =>
    cases rst with
    | true => simp [crcAfter, nextCrc, definedAfter, definesCrc]
    | false =>
      rcases Op.cases op with rfl | rfl | rfl | rfl <;>
        simp [crcAfter, nextCrc, definedAfter, definesCrc]

/-- Only a power cycle undoes a defined register. -/
theorem crcAfter_ne_none {crc : Option Byte} {e : HostEvent} (hcrc : crc ≠ none)
    (he : e ≠ .powerCycle) : crcAfter crc e ≠ none := by
  rw [Option.ne_none_iff_isSome] at hcrc ⊢
  rw [isSome_crcAfter, hcrc]
  cases e with
  | edge rst op din => rfl
  | sample port => rfl
  | powerCycle => exact absurd rfl he

/-- What a step performs is pending, or is the idle edge. -/
theorem State.nextEvent_mem_or_idle (s : State) :
    s.nextEvent ∈ s.pending ∨ s.nextEvent = idleEdge := by
  cases h : s.pending with
  | nil => exact .inr (State.nextEvent_nil h)
  | cons e es => rw [State.nextEvent_cons h]; exact .inl (List.mem_cons_self)

/-- Settles O25: the interaction performed is no power cycle, so it keeps the register defined. -/
theorem stepKeepsDefinedForGood : Obligations.StepKeepsDefinedForGood := by
  intro s t ⟨hcrc, hpower⟩ h
  have hevent : s.nextEvent ≠ .powerCycle := by
    intro he
    rcases s.nextEvent_mem_or_idle with hmem | hidle
    · exact hpower (he ▸ hmem)
    · exact absurd (he.symm.trans hidle) (by decide)
  constructor
  · rw [step_crc_eq_crcAfter h]
    exact crcAfter_ne_none hcrc hevent
  · rw [step_pending h]
    exact fun hmem => hpower (List.mem_of_mem_tail hmem)

/-- Settles O26: reset writes 0x00, and nothing is pending. -/
theorem resetIsDefinedForGood : Obligations.ResetIsDefinedForGood :=
  ⟨Option.some_ne_none _, List.not_mem_nil⟩

/-! ### The boot duty (R72) -/

/-- A host that keeps the boot duty samples only a defined register, and what it does after its next
interaction keeps the duty too. -/
theorem keepsBootDuty_cons {d : Bool} {e : HostEvent} {es : List HostEvent}
    (h : keepsBootDuty d (e :: es) = true) :
    (∀ port, e = .sample port → d = true) ∧ keepsBootDuty (definedAfter d e) es = true := by
  cases e with
  | edge rst op din => exact ⟨nofun, h⟩
  | powerCycle => exact ⟨nofun, h⟩
  | sample port =>
    obtain ⟨hd, hrest⟩ := Bool.and_eq_true_iff.mp h
    exact ⟨fun _ _ => hd, hrest⟩

/-- An interaction of a host that keeps the boot duty leaves a clean record clean. -/
theorem faultAfter_none {crc : Option Byte} {e : HostEvent}
    (h : ∀ port, e = .sample port → crc.isSome = true) : faultAfter crc none e = none := by
  cases e with
  | edge rst op din => rfl
  | powerCycle => rfl
  | sample port => exact if_neg (Option.ne_none_iff_isSome.mpr (h port rfl))

/-- Nothing is recorded, and every sampling to come finds the register defined (R72). -/
def State.isCleanForGood (s : State) : Prop :=
  s.fault = none ∧ keepsBootDuty s.crc.isSome s.pending = true

/-- Every step keeps the record clean for good, idle edges included. -/
theorem step_keeps_cleanForGood (s t : State) (hs : s.isCleanForGood) (h : step s = .next t) :
    t.isCleanForGood := by
  obtain ⟨hfault, hduty⟩ := hs
  rw [State.isCleanForGood, step_fault_eq_faultAfter h, step_crc_eq_crcAfter h, step_pending h,
    hfault, isSome_crcAfter]
  cases hp : s.pending with
  | nil => rw [State.nextEvent_nil hp]; exact ⟨rfl, rfl⟩
  | cons e es =>
    rw [hp] at hduty
    obtain ⟨hsample, hrest⟩ := keepsBootDuty_cons hduty
    rw [State.nextEvent_cons hp]
    exact ⟨faultAfter_none hsample, hrest⟩

/-- Settles O33: the run completes, and the record stays clean for good along it. -/
theorem bootDutyKeepsTheRecordClean : Obligations.BootDutyKeepsTheRecordClean := by
  intro k s hfault hduty
  obtain ⟨t, ht⟩ := runFor_completes k s
  obtain ⟨hclean, -⟩ := runFor_keeps step_keeps_cleanForGood ⟨hfault, hduty⟩ ht
  exact ⟨t, ht, hclean⟩

/-! ### The block follows the message absorbed (R73, R75) -/

theorem crc8_append_byte (M : Message) (b : Byte) : crc8 (M ++ [b]) = step8 (crc8 M) b :=
  crc8_append M [b]

/-- One interaction takes the CRC of the message so far to the CRC of the message after it. -/
theorem crcAfter_map_crc8 (m : Option Message) (e : HostEvent) :
    crcAfter (m.map crc8) e = (messageAfter m e).map crc8 := by
  cases e with
  | sample port => rfl
  | powerCycle => rfl
  | edge rst op din =>
    cases rst with
    | true => rfl
    | false =>
      rcases Op.cases op with rfl | rfl | rfl | rfl
      · rfl
      · rfl
      · cases m with
        | none => rfl
        | some M => exact congrArg some (crc8_append_byte M din).symm
      · exact congrArg some (crc8_append_byte [] din).symm

/-- Settles O42, by induction on the stretch, one interaction at a time. -/
theorem blockRefinesTheMessageAbsorbed : Obligations.BlockRefinesTheMessageAbsorbed := by
  intro es rest s m hp hcrc
  induction es generalizing s m with
  | nil => exact ⟨s, rfl, hp, hcrc⟩
  | cons e es ih =>
    obtain ⟨u, hu, hup, hucrc⟩ := step_of_pending_completes hp
    rw [List.length_cons, runFor_succ_of_next hu, List.foldl_cons]
    refine ih u (messageAfter m e) hup ?_
    rw [State.crcOut_eq, hucrc, ← State.crcOut_eq, hcrc, crcAfter_map_crc8]

/-! ### The register and the commands (R21, R51, R69) -/

/-- Settles O15: the byte step from 0x00 is injective on the bytes, and so is onto them. -/
theorem onlyTheListedEventsWriteTheRegister : Obligations.OnlyTheListedEventsWriteTheRegister :=
  ⟨fun _ _ => step_crc_eq_crcAfter,
    (Finite.injective_iff_bijective.mp step8_zero_injective).existsUnique⟩

/-- A command only writes `crc`, by R51's next-state function at its own word. -/
theorem exec_eq (i : Instr) (s : State) :
    exec i s =
      .next (s.writeCrc (nextCrc s.crc false (opOf (encode i)) (dinOf (encode i)))) := by
  rw [← clockEdge_eq, clockEdge_command, cmdOf_opOf_dinOf, decode_encode]

/-- Settles O13: the fields of a register write. -/
theorem everyCommandCompletesInItsFrame : Obligations.EveryCommandCompletesInItsFrame :=
  fun i s => ⟨_, exec_eq i s, rfl, rfl, rfl, rfl⟩

/-- Settles O14: a command is a register write, and NOP writes the register back. -/
theorem commandsChangeOnlyTheRegister : Obligations.CommandsChangeOnlyTheRegister := by
  intro i s t h
  rw [exec_eq] at h
  cases h
  refine ⟨rfl, rfl, rfl, ?_⟩
  rintro rfl
  rfl

/-- Settles O16: the edge taken off is a clock edge with `rst` low. -/
theorem stepRunsTheDecodedCommand : Obligations.StepRunsTheDecodedCommand := by
  rintro s op din rest _ hp rfl
  rw [step_of_pending hp, performEvent, clockEdge_command]
  rfl

/-- Settles O17: the word is the first edge, and taking it off gives the state back. -/
theorem presentedWordRunsNext : Obligations.PresentedWordRunsNext := by
  intro s nbits w _
  have hedge : (s.withFetchWord nbits w).pending =
      .edge false (opOf (BitVec.ofNat 10 w)) (dinOf (BitVec.ofNat 10 w)) :: s.pending := rfl
  rw [stepRunsTheDecodedCommand _ _ _ _ _ hedge rfl, cmdOf_opOf_dinOf]
  rfl

/-- Settles O18: the idle edge is a NOP, and nothing is taken off. -/
theorem idleEdgeHolds : Obligations.IdleEdgeHolds := by
  intro s hp
  have hdrop : s.dropEvent = s := by rw [State.dropEvent, hp, List.tail_nil, ← hp]; rfl
  rw [step, State.nextEvent_nil hp, hdrop]
  exact clockEdge_nop 0x00 s

/-- Settles O22: one reset edge on the power-on state makes the tabulated one. -/
theorem resetStateIsAsTabulated : Obligations.ResetStateIsAsTabulated :=
  ⟨rfl, State.crcOut_eq _, State.zero_of_crcOut (State.crcOut_eq State.reset),
    clockEdge_reset _ _ _⟩

/-- Settles O27: the power cycle is performed on the state without it. -/
theorem powerCycleUndefines : Obligations.PowerCycleUndefines :=
  fun _ _ hp => step_of_pending hp

end Sys2Proof.Machine
end

section
/-! SUPPORT. Sampling and observing the outputs (10_state.md R23, R34; 60_exceptions.md R64; 70_reset_and_hazards.md R74, R79). -/

namespace Sys2Proof.Machine

/-! ### Sampling (R34, R74) -/

/-- What a port shows in a state (R23, R24). -/
def OutPort.shown (port : OutPort) (s : State) : Sample :=
  match port with
  | .crcOut => .crcOut s.crcOut
  | .zero => .zero s.zero

/-- Both ports show functions of the register alone. -/
theorem OutPort.shown_congr (port : OutPort) {s t : State} (h : s.crc = t.crc) :
    port.shown s = port.shown t := by
  cases port with
  | crcOut => rw [shown, shown, State.crcOut_eq, State.crcOut_eq, h]
  | zero => rw [shown, shown, State.zero_congr h]

theorem takeSample_samples (port : OutPort) (s : State) :
    (takeSample port s).samples = s.samples ++ [port.shown s] := by
  cases port with
  | crcOut => exact takeSample_crcOut_samples s
  | zero => exact takeSample_zero_samples s

/-- A step with a sampling pending completes, takes it off, leaves the register and records what the port
shows. -/
theorem step_of_pending_sample {s : State} {port : OutPort} {es : List HostEvent}
    (h : s.pending = .sample port :: es) :
    ∃ t : State, step s = .next t ∧ t.crc = s.crc ∧ t.pending = es ∧
      t.samples = s.samples ++ [port.shown s] := by
  obtain ⟨hcrc, hpending⟩ := takeSample_frame port (s.setPending es)
  exact ⟨_, step_of_pending h, hcrc, hpending, takeSample_samples port (s.setPending es)⟩

/-- Two samplings of a port in a row record the same value twice (R34). -/
theorem runFor_two_samples {s : State} {port : OutPort} {rest : List HostEvent}
    (h : s.pending = .sample port :: .sample port :: rest) :
    ∃ t : State, runFor 2 s = .next t ∧ t.crc = s.crc ∧ t.pending = rest ∧
      t.samples = s.samples ++ [port.shown s, port.shown s] := by
  obtain ⟨u, hu, hucrc, hupending, husamples⟩ := step_of_pending_sample h
  obtain ⟨t, ht, htcrc, htpending, htsamples⟩ := step_of_pending_sample hupending
  refine ⟨t, (runFor_succ_of_next hu).trans (runFor_succ_of_next ht), htcrc.trans hucrc,
    htpending, ?_⟩
  rw [htsamples, husamples, port.shown_congr hucrc, List.append_assoc, List.singleton_append]

/-- Settles O30: one argument for both ports. -/
theorem samplingHasNoSideEffect : Obligations.SamplingHasNoSideEffect :=
  fun _ _ => ⟨runFor_two_samples (port := .crcOut), runFor_two_samples (port := .zero)⟩

/-- Settles O34: the sampling shows the register of its own state, which the edge has or has not yet
written. -/
theorem sampleAfterTheEdgeShowsTheNewValue : Obligations.SampleAfterTheEdgeShowsTheNewValue := by
  intro s rst op din rest
  constructor <;> intro h
  · have hedge := step_of_pending_edge h
    obtain ⟨t, ht, hcrc, -, hsamples⟩ := step_of_pending_sample
      (s := (s.setPending (.sample .crcOut :: rest)).writeCrc (nextCrc s.crc rst op din)) rfl
    refine ⟨t, (runFor_succ_of_next hedge).trans (runFor_succ_of_next ht), hcrc, ?_⟩
    rw [hsamples, OutPort.shown, State.crcOut_eq]
    rfl
  · obtain ⟨u, hu, hcrc, hpending, hsamples⟩ := step_of_pending_sample h
    have hedge := step_of_pending_edge hpending
    rw [OutPort.shown, State.crcOut_eq] at hsamples
    exact ⟨_, (runFor_succ_of_next hu).trans (runFor_succ_of_next hedge),
      congrArg (nextCrc · rst op din) hcrc, hsamples⟩

/-! ### Observing and the model fault (R64, R79) -/

theorem observeCrcOut_of_defined {s : State} {c : Byte} (h : s.crc = some c) :
    observeCrcOut s = .ok c := by
  rw [observeCrcOut, State.crcOut_eq, h, observed]

theorem observeZero_of_defined {s : State} {c : Byte} (h : s.crc = some c) :
    observeZero s = .ok (decide (c = 0x00)) := by
  rw [observeZero, State.zero_of_crcOut ((State.crcOut_eq s).trans h), observed]

/-- Observing an output raises the model fault exactly where it is `⊥` (R64). -/
theorem observed_eq_error_iff {α : Type} (out : Option α) :
    observed out = .error .undefinedStateRead ↔ out = none := by
  cases out <;> simp [observed]

theorem observeCrcOut_eq_error_iff (s : State) :
    observeCrcOut s = .error .undefinedStateRead ↔ s.crc = none := by
  rw [observeCrcOut, observed_eq_error_iff, State.crcOut_eq]

theorem observeZero_eq_error_iff (s : State) :
    observeZero s = .error .undefinedStateRead ↔ s.crc = none := by
  rw [observeZero, observed_eq_error_iff, State.zero_eq_none_iff]

/-- After an interaction the model fault is recorded exactly if it was before, or if a port showed `⊥`
(R64). -/
theorem faultAfter_eq_undefinedStateRead_iff (crc : Option Byte) (fault : Option Fault)
    (e : HostEvent) :
    faultAfter crc fault e = some .undefinedStateRead ↔
      fault = some .undefinedStateRead ∨ (crc = none ∧ ∃ port, e = .sample port) := by
  cases e with
  | edge rst op din => simp [faultAfter]
  | powerCycle => simp [faultAfter]
  | sample port =>
    cases crc with
    | none => simp [faultAfter, Fault.eq_undefinedStateRead]
    | some c => simp [faultAfter]

/-- Settles O31: the record after a step is that of its interaction. -/
theorem undefinedReadIsRecordedExactly : Obligations.UndefinedReadIsRecordedExactly := by
  refine ⟨fun s => ⟨observeCrcOut_eq_error_iff s, observeZero_eq_error_iff s⟩, fun s => ?_⟩
  obtain ⟨t, ht⟩ := step_completes s
  refine ⟨t, ht, ?_⟩
  rw [step_fault_eq_faultAfter ht]
  exact faultAfter_eq_undefinedStateRead_iff s.crc s.fault s.nextEvent

/-- Settles O35: both observations answer a value, or both raise the one fault there is. -/
theorem endOfRunObservation : Obligations.EndOfRunObservation := by
  refine fun s => ⟨fun c hc => ?_, fun hc => ?_⟩
  · have hzero := State.zero_of_crcOut ((State.crcOut_eq s).trans hc)
    rw [State.observation, observeCrcOut_of_defined hc, observeZero_of_defined hc,
      State.crcOut_eq, hc, hzero]
    rfl
  · rw [State.observation, observeCrcOut_of_undefined hc, observeZero_of_undefined hc,
      State.crcOut_eq, (State.zero_eq_none_iff s).mpr hc, hc]
    exact congrArg (fun f => Observation.mk none none (some f)) (Fault.eq_undefinedStateRead _)

end Sys2Proof.Machine
end

section
/-! SUPPORT. The encoding (30_encoding.md): words by mask and match (R81), decoder and encoder against each other (R80, R84, R86), and the forms of a line (R86). -/

namespace Sys2Proof.Machine

/-! ### Decode of encode (R80, R81) -/

/-- The table decoder reads every ten-bit word as the decoder does (R84). -/
theorem decodeTableWord_toNat (nbits : Nat) (w : Cmd) :
    decodeTableWord nbits w.toNat = some (decode w) := by
  rw [decodeTableWord, decodeWord_of_lt w.isLt, BitVec.ofNat_toNat, BitVec.setWidth_eq]

/-- Settles O4: each command's word holds its code and its byte. -/
theorem decodeOfEncode : Obligations.DecodeOfEncode := by
  intro i nbits _
  rw [decodeTableWord_toNat, decode_encode]
  exact ⟨rfl, rfl⟩

/-- A number above ten bits is refused (R80). -/
theorem decodeWord_of_ge {w : Nat} (h : 1024 ≤ w) : decodeWord w = .error .notTenBits :=
  if_neg (mt of_decide_eq_true (Nat.not_lt.mpr h))

/-- Settles O3: the table decoder passes the refusal on. -/
theorem largerNumbersAreNoCommand : Obligations.LargerNumbersAreNoCommand := by
  intro nbits w h
  rw [decodeTableWord, decodeWord_of_ge h]
  exact ⟨rfl, rfl⟩

/-! ### Mask and match (R81) -/

/-- `din` is the low byte of the word. -/
theorem dinOf_eq_setWidth (w : Cmd) : dinOf w = w.setWidth 8 :=
  (BitVec.setWidth_eq_extractLsb' (by decide)).symm

theorem decode_of_opOf_update {w : Cmd} (h : opOf w = 2#2) : decode w = .update (dinOf w) := by
  simp [decode, h]

theorem decode_of_opOf_start {w : Cmd} (h : opOf w = 3#2) : decode w = .start (dinOf w) := by
  simp [decode, h]

/-- Settles O1: what a word holds under the mask 0x300 is its code. -/
theorem decodeSelectsByMaskAndMatch : Obligations.DecodeSelectsByMaskAndMatch := by
  intro w
  rw [← dinOf_eq_setWidth]
  exact ⟨fun h => (decode_eq_nop_iff w).mpr ((Laws.OpField.mask_eq_iff w 0x000).mp h),
    fun h => (decode_eq_init_iff w).mpr ((Laws.OpField.mask_eq_iff w 0x100).mp h),
    fun h => decode_of_opOf_update ((Laws.OpField.mask_eq_iff w 0x200).mp h),
    fun h => decode_of_opOf_start ((Laws.OpField.mask_eq_iff w 0x300).mp h)⟩

/-! ### Encode of decode (R84, R86) -/

/-- The mask 0x300 clears `din`. -/
theorem and_opMask (w : Cmd) : w &&& 0x300 = cmdOf (opOf w) 0x00 := by
  have hop : ∀ op : Op, cmdOf op 0x00 &&& 0x300 = cmdOf op 0x00 := by decide
  rw [← hop, Laws.OpField.mask_eq_iff, opOf_cmdOf]

/-- Bit 9 is the upper bit of the code. -/
theorem and_bit9_eq_zero_iff (w : Cmd) : w &&& 0x200 = 0x000 ↔ opOf w = 0#2 ∨ opOf w = 1#2 := by
  have hop : ∀ op : Op, cmdOf op 0x00 &&& 0x200 = 0x000 ↔ op = 0#2 ∨ op = 1#2 := by decide
  rw [← hop, ← and_opMask, BitVec.and_assoc]
  rfl

/-- Settles O5: the four codes, NOP and INIT writing `din` as 0x00. -/
theorem encodeOfDecode : Obligations.EncodeOfDecode := by
  intro w
  rw [and_opMask]
  split
  · next hbit =>
    rcases (and_bit9_eq_zero_iff w).mp hbit with hop | hop
    · rw [(decode_eq_nop_iff w).mpr hop, hop]; rfl
    · rw [(decode_eq_init_iff w).mpr hop, hop]; rfl
  · next hbit =>
    obtain ⟨hnop, hinit⟩ := not_or.mp (mt (and_bit9_eq_zero_iff w).mpr hbit)
    rcases Op.cases (opOf w) with hop | hop | hop | hop
    · exact absurd hop hnop
    · exact absurd hop hinit
    · rw [decode_of_opOf_update hop, encode, ← hop, cmdOf_opOf_dinOf]
    · rw [decode_of_opOf_start hop, encode, ← hop, cmdOf_opOf_dinOf]

/-- Settles O6: eight fixed words. -/
theorem wordsOfTheSpecDecode : Obligations.WordsOfTheSpecDecode := by
  refine ⟨?_, ?_, ?_, ?_, ?_, ?_, ?_, ?_⟩ <;> decide

/-- Settles O7: an edge runs the command of its code, and NOP and INIT have no operand. -/
theorem operandIsIgnoredOrUsedAsIs : Obligations.OperandIsIgnoredOrUsedAsIs := fun din din' s =>
  ⟨(clockEdge_nop din s).trans (clockEdge_nop din' s).symm,
    (clockEdge_init din s).trans (clockEdge_init din' s).symm,
    clockEdge_update din s, clockEdge_start din s, operandByte_eq din⟩

/-! ### Lines (R86) -/

/-- Settles O58: the word of each line carries the code and the byte it was made from. -/
theorem linesAreTheirEdges : Obligations.LinesAreTheirEdges :=
  ⟨rfl, rfl, fun b => congrArg ([·]) (wordEdge_cmdOf 0b10 b),
    fun b => congrArg ([·]) (wordEdge_cmdOf 0b11 b), rfl⟩

/-- Settles O59: seven fixed texts. -/
theorem assemblerReadsTheForms : Obligations.AssemblerReadsTheForms :=
  ⟨rfl, rfl, rfl, rfl, rfl, rfl, rfl⟩

end Sys2Proof.Machine
end

section
/-! SUPPORT. The remaining frames (20_memory.md R37; D19): the 32-bit read, and the refusal of an address above 0x7F. -/

namespace Sys2Proof.Machine

/-- The message of a 32-bit read from an address up to 0x7F (R37). -/
theorem readMessage32_ok {addr : Nat} (h : addr ≤ 0x7F) (reg d0 d1 d2 d3 : Byte) :
    readMessage32 addr reg d0 d1 d2 d3 =
      .ok [BitVec.ofNat 8 (2 * addr), reg, BitVec.ofNat 8 (2 * addr + 1), d0, d1, d2, d3] := by
  rw [readMessage32, forPeripheral_of_le h, writeAddressByte_eq, readAddressByte_eq]

/-- A byte appended below a value is that byte and the value shifted past it. -/
theorem setWidth_append_byte {n : Nat} (hi : BitVec n) (lo : Byte) :
    (hi ++ lo).setWidth 32 = lo.setWidth 32 ||| (hi.setWidth 32 <<< 8) := by
  rw [BitVec.setWidth_append_eq_shiftLeft_setWidth_or, BitVec.or_comm]

/-- Four received bytes make `d0 | d1<<8 | d2<<16 | d3<<24` (R37, D18). -/
theorem value32_littleEndian (d0 d1 d2 d3 : Byte) :
    value32 .littleEndian d0 d1 d2 d3 =
      d0.setWidth 32 ||| (d1.setWidth 32 <<< 8) ||| (d2.setWidth 32 <<< 16) |||
        (d3.setWidth 32 <<< 24) := by
  have hwidth : value32 .littleEndian d0 d1 d2 d3 = (d3 ++ d2 ++ d1 ++ d0).setWidth 32 :=
    (BitVec.setWidth_eq _).symm
  simp only [hwidth, setWidth_append_byte, BitVec.shiftLeft_or_distrib, ← BitVec.shiftLeft_add,
    BitVec.or_assoc]

/-- Settles O53: the read is the checked read of its seven-byte message. -/
theorem readFrame32 : Obligations.ReadFrame32 := by
  intro addr reg d0 d1 d2 d3 received h
  refine ⟨readMessage32_ok h reg d0 d1 d2 d3, ?_⟩
  rw [readRegister32, readMessage32_ok h, checkedRead_ok, value32_littleEndian]

/-- An address above 0x7F is refused (D19). -/
theorem forPeripheral_of_gt {α : Type} {addr : Nat} (h : 0x7F < addr) (x : α) :
    forPeripheral addr x = .error .peripheralAddressTooLarge :=
  if_neg (mt of_decide_eq_true (Nat.not_le.mpr h))

/-- Settles O54: every operation passes the refusal of its message on. -/
theorem framesRefuseLargeAddresses : Obligations.FramesRefuseLargeAddresses := by
  intro addr reg low high d2 d3 received value h
  have hwrite : writeMessage16 addr reg value = .error .peripheralAddressTooLarge :=
    forPeripheral_of_gt h _
  refine ⟨hwrite, ?_, ?_, ?_⟩
  · rw [writeBytes16, hwrite]; rfl
  · rw [readRegister16, readMessage16, forPeripheral_of_gt h, checkedRead]
  · rw [readRegister32, readMessage32, forPeripheral_of_gt h, checkedRead]

end Sys2Proof.Machine
end

section
/-! SUPPORT. The bit-serial view of the byte step (20_memory.md R31) and the reach of error detection (40_crc_ops.md R57), with the host's checks that rest on them (60_exceptions.md R62, 70_reset_and_hazards.md R77). -/

namespace Sys2Proof.Machine

/-! ### Bit by bit (R31) -/

/-- One iteration of R40's loop on `v ^^^ w` absorbs the top bit of `w` into `v` and keeps the rest. -/
theorem bitStep_xor_eq_serialStep (v w : Byte) :
    bitStep (v ^^^ w) = serialStep v w.msb ^^^ (w <<< 1) := by
  rw [bitStep, serialStep, BitVec.msb_xor, BitVec.shiftLeft_xor_distrib, Bool.bne_eq_xor]
  cases v.msb ^^ w.msb
  · rfl
  · rw [if_pos rfl, if_pos rfl]; ac_rfl

theorem bitSteps_eq_iterate (n : Nat) (v : Byte) : bitSteps n v = bitStep^[n] v := by
  induction n generalizing v with
  | zero => rfl
  | succ n ih => exact ih (bitStep v)

/-- After `n` iterations the top `n` bits of `b` are absorbed and the others still wait. -/
theorem bitSteps_xor_eq_foldl (n : Nat) (c b : Byte) :
    bitSteps n (c ^^^ b) =
      ((List.range n).map fun i => b.getMsbD i).foldl serialStep c ^^^ (b <<< n) := by
  induction n with
  | zero => simp [bitSteps]
  | succ n ih =>
    rw [bitSteps_eq_iterate, Function.iterate_succ_apply', ← bitSteps_eq_iterate, ih,
      bitStep_xor_eq_serialStep, BitVec.msb_shiftLeft, ← BitVec.shiftLeft_add, List.range_succ,
      List.map_append, List.foldl_append, List.map_singleton, List.foldl_cons, List.foldl_nil]

theorem step8_eq_foldl (c b : Byte) : step8 c b = (byteBits b).foldl serialStep c := by
  rw [step8, bitSteps_xor_eq_foldl, BitVec.shiftLeft_eq_zero (le_refl 8), BitVec.xor_zero, byteBits]

/-- Settles O37: after eight iterations no bit of the byte waits. -/
theorem byteStepAbsorbsTheTopBitFirst : Obligations.ByteStepAbsorbsTheTopBitFirst := step8_eq_foldl

theorem absorbAll_eq_foldl (c : Byte) (M : Message) :
    absorbAll c M = (messageBits M).foldl serialStep c := by
  induction M generalizing c with
  | nil => rfl
  | cons b M ih =>
    rw [absorbAll_cons, ih, step8_eq_foldl, messageBits, messageBits, List.flatMap_cons,
      List.foldl_append]

theorem crc8_eq_foldl (M : Message) : crc8 M = (messageBits M).foldl serialStep 0x00 := by
  rw [crc8_eq_absorbAll, absorbAll_eq_foldl]

theorem length_messageBits (M : Message) : (messageBits M).length = 8 * M.length := by
  simp [messageBits, byteBits, List.length_flatMap, mul_comm]

/-- An error pattern is detected when its bits leave the register other than 0x00 (R56). -/
theorem detects_of_foldl_ne_zero {M E : Message} (hlen : E.length = M.length + 1)
    (h : (messageBits E).foldl serialStep 0x00 ≠ 0x00) : detects M E := by
  rwa [detects_iff hlen, crc8_eq_foldl]

/-! ### What single bits do to the register -/

/-- A bit 0 is one iteration of the loop alone. -/
theorem serialStep_false (v : Byte) : serialStep v false = bitStep v := by
  rw [serialStep, bitStep, Bool.bne_false]

/-- A bit 1 is one iteration of the loop with bit 7 of the register flipped. -/
theorem serialStep_true (v : Byte) : serialStep v true = bitStep (v ^^^ 0x80) :=
  ((bitStep_xor_eq_serialStep v 0x80).trans BitVec.xor_zero).symm

theorem serialStep_true_eq_zero_iff (v : Byte) : serialStep v true = 0x00 ↔ v = 0x80 := by
  rw [serialStep_true]
  exact (bitStep_eq_zero_iff _).trans BitVec.xor_eq_zero_iff

theorem foldl_replicate_false (n : Nat) (c : Byte) :
    (List.replicate n false).foldl serialStep c = bitSteps n c := by
  induction n generalizing c with
  | zero => rfl
  | succ n ih => rw [List.replicate_succ, List.foldl_cons, serialStep_false, ih, bitSteps]

/-- Bits 0 before and after an error pattern change nothing about its being detected (R57). -/
theorem foldl_surrounded_eq_zero_iff (p q : Nat) (bits : List Bool) :
    (List.replicate p false ++ bits ++ List.replicate q false).foldl serialStep 0x00 = 0x00 ↔
      bits.foldl serialStep 0x00 = 0x00 := by
  have hbefore : bitSteps p 0x00 = 0x00 := (bitSteps_eq_zero_iff p 0x00).mpr rfl
  rw [List.foldl_append, List.foldl_append, foldl_replicate_false, foldl_replicate_false, hbefore]
  exact bitSteps_eq_zero_iff q _

/-! ### Errors of odd weight: `G(1) = 0` (R57) -/

/-- The number of bits 1 of a byte over GF(2): the byte's polynomial at 1. -/
noncomputable def parity (v : Byte) : ZMod 2 := (bytePoly v).eval 1

theorem parity_xor (a b : Byte) : parity (a ^^^ b) = parity a + parity b := by
  rw [parity, bytePoly_xor, Polynomial.eval_add, parity, parity]

theorem parity_zero : parity 0x00 = 0 := by rw [parity, bytePoly_zero, Polynomial.eval_zero]

/-- The loop keeps the parity, because `G(1) = 0`. -/
theorem parity_bitStep (v : Byte) : parity (bitStep v) = parity v := by
  have hgen : generatorPoly.eval 1 = 0 := by
    simp [generatorPoly, CharTwo.add_self_eq_zero]
  have heval := congrArg (Polynomial.eval 1) (bytePoly_bitStep v)
  rw [Polynomial.eval_mul_X, mul_one, Polynomial.eval_add] at heval
  rw [parity, parity, heval]
  cases v.msb <;> simp [hgen]

theorem parity_bitSteps (n : Nat) (v : Byte) : parity (bitSteps n v) = parity v := by
  induction n generalizing v with
  | zero => rfl
  | succ n ih => rw [bitSteps, ih, parity_bitStep]

theorem parity_step8 (c b : Byte) : parity (step8 c b) = parity c + parity b := by
  rw [step8, parity_bitSteps, parity_xor]

theorem parity_topBit : parity 0x80 = 1 := by
  simp [parity, bytePoly, Finset.sum_range_succ]

/-- Each bit 1 absorbed flips the parity of the register. -/
theorem parity_foldl (c : Byte) (bits : List Bool) :
    parity (bits.foldl serialStep c) = parity c + bits.count true := by
  induction bits generalizing c with
  | nil => simp
  | cons bit bits ih =>
    rw [List.foldl_cons, ih]
    cases bit with
    | false => simp [serialStep_false, parity_bitStep]
    | true =>
      rw [serialStep_true, parity_bitStep, parity_xor, parity_topBit, List.count_cons_self,
        Nat.cast_succ, add_assoc, add_comm 1]

/-- An error with an odd number of flipped bits is detected (R57). -/
theorem detects_of_odd {M E : Message} (hlen : E.length = M.length + 1)
    (hodd : (messageBits E).count true % 2 = 1) : detects M E := by
  refine detects_of_foldl_ne_zero hlen fun hzero => ?_
  have hparity := parity_foldl 0x00 (messageBits E)
  rw [hzero, parity_zero, zero_add, eq_comm, ZMod.natCast_eq_zero_iff_even, Nat.even_iff] at hparity
  omega

/-- Settles O47: one is odd. -/
theorem oddErrorsAreDetected : Obligations.OddErrorsAreDetected :=
  fun _ _ hlen => ⟨fun hone => detects_of_odd hlen (by rw [hone]), detects_of_odd hlen⟩

/-! ### Bursts (R57) -/

/-- Any eight bits are those of a byte. -/
theorem exists_byteBits_eq {bits : List Bool} (h : bits.length = 8) : ∃ b, byteBits b = bits := by
  refine ⟨(BitVec.ofBoolListBE bits).cast h, List.ext_getElem (by simp [byteBits, h]) ?_⟩
  intro i _ hi
  simp [byteBits, List.getD_eq_getElem?_getD, List.getElem?_eq_getElem hi]

/-- Eight bits take the register from 0x00 to 0x00 only if all are 0. -/
theorem foldl_eq_zero_of_length_eq {bits : List Bool} (hlen : bits.length = 8)
    (h : bits.foldl serialStep 0x00 = 0x00) : true ∉ bits := by
  obtain ⟨b, rfl⟩ := exists_byteBits_eq hlen
  rw [← step8_eq_foldl] at h
  obtain rfl := (step8_eq_zero_iff 0x00 b).mp h
  decide

/-- A burst of up to eight bits leaves the register other than 0x00: zeros after it make it eight bits. -/
theorem foldl_burst_ne_zero {burst : List Bool} (hlen : burst.length ≤ 8) (htrue : true ∈ burst) :
    burst.foldl serialStep 0x00 ≠ 0x00 := by
  intro hzero
  have hpadded := (foldl_surrounded_eq_zero_iff 0 (8 - burst.length) burst).mpr hzero
  refine foldl_eq_zero_of_length_eq ?_ hpadded (by simp [htrue])
  simp only [List.replicate_zero, List.nil_append, List.length_append, List.length_replicate]
  omega

/-- Settles O48: the zeros around the burst leave it to the burst itself. -/
theorem shortBurstsAreDetected : Obligations.ShortBurstsAreDetected := by
  intro M E p q burst hlen hbits hburst htrue
  refine detects_of_foldl_ne_zero hlen ?_
  rw [hbits, Ne, foldl_surrounded_eq_zero_iff]
  exact foldl_burst_ne_zero hburst htrue

/-! ### Two flipped bits: the order of `x` modulo `G(x)` is 127 (R57) -/

set_option maxRecDepth 6000 in
/-- 127 iterations of the loop bring 0x80 back. -/
theorem isPeriodicPt_topBit : Function.IsPeriodicPt bitStep 127 0x80 := by
  rw [Function.IsPeriodicPt, Function.IsFixedPt, ← bitSteps_eq_iterate]
  decide

/-- Fewer iterations do not: 127 is a prime, and a single iteration does not keep 0x80. -/
theorem bitSteps_topBit_ne {n : Nat} (hpos : n ≠ 0) (hlt : n < 127) : bitSteps n 0x80 ≠ 0x80 := by
  intro h
  have hn : Function.IsPeriodicPt bitStep n 0x80 := by rwa [bitSteps_eq_iterate] at h
  have hprime : Nat.Prime 127 := by norm_num
  have hone := isPeriodicPt_topBit.gcd hn
  rw [Nat.coprime_of_lt_prime hpos hlt hprime] at hone
  exact absurd hone (by decide)

/-- Two flipped bits less than 127 positions apart leave the register other than 0x00. -/
theorem foldl_two_bits_ne_zero {d : Nat} (hd : d + 1 < 127) :
    ([true] ++ List.replicate d false ++ [true]).foldl serialStep 0x00 ≠ 0x00 := by
  rw [List.foldl_append, List.foldl_append, foldl_replicate_false, List.foldl_cons, List.foldl_nil,
    List.foldl_cons, List.foldl_nil, Ne, serialStep_true_eq_zero_iff, serialStep_true]
  exact bitSteps_topBit_ne d.succ_ne_zero hd

/-- Settles O49: the zeros around the two bits leave it to the bits and the distance between them. -/
theorem nearbyTwoBitErrorsAreDetected : Obligations.NearbyTwoBitErrorsAreDetected := by
  intro M E p d q hlen hbits hd
  refine detects_of_foldl_ne_zero hlen ?_
  have hgroup : messageBits E = List.replicate p false ++
      ([true] ++ List.replicate d false ++ [true]) ++ List.replicate q false := by
    rw [hbits]
    simp only [List.append_assoc]
  rw [hgroup, Ne, foldl_surrounded_eq_zero_iff]
  exact foldl_two_bits_ne_zero hd

/-- A list without a bit 1 is all zeros. -/
theorem eq_replicate_false {bits : List Bool} (h : true ∉ bits) :
    bits = List.replicate bits.length false :=
  List.eq_replicate_of_mem fun _ hb => Bool.eq_false_of_not_eq_true fun htrue => h (htrue ▸ hb)

/-- A list with a bit 1 begins with zeros and that bit. -/
theorem exists_eq_replicate_false_append {bits : List Bool} {n : Nat}
    (h : bits.count true = n + 1) :
    ∃ p rest, bits = List.replicate p false ++ [true] ++ rest ∧ rest.count true = n := by
  have hmem : true ∈ bits := List.count_pos_iff.mp (by omega)
  obtain ⟨zeros, rest, rfl, hzeros⟩ := List.eq_append_cons_of_mem hmem
  refine ⟨zeros.length, rest, ?_, ?_⟩
  · rw [← eq_replicate_false hzeros, List.append_assoc, List.singleton_append]
  · rw [List.count_append, List.count_eq_zero.mpr hzeros, List.count_cons_self] at h
    omega

/-- Two bits 1 stand between zeros, and within the length of the list. -/
theorem exists_eq_two_bits {bits : List Bool} (h : bits.count true = 2) :
    ∃ p d q, bits = List.replicate p false ++ [true] ++ List.replicate d false ++ [true] ++
      List.replicate q false ∧ d + 1 < bits.length := by
  obtain ⟨p, tail, rfl, htail⟩ := exists_eq_replicate_false_append h
  obtain ⟨d, zeros, rfl, hzeros⟩ := exists_eq_replicate_false_append htail
  refine ⟨p, d, zeros.length, ?_, ?_⟩
  · rw [← eq_replicate_false (List.count_eq_zero.mp hzeros)]
    simp only [List.append_assoc]
  · simp only [List.length_append, List.length_replicate, List.length_singleton]
    omega

/-- Settles O50: in 64 bits no two are 127 positions apart; the 4-bit pattern is 0x01 with its own CRC
byte, after zeros. -/
theorem reachOverTheFramesOfTheHost : Obligations.ReachOverTheFramesOfTheHost := by
  refine ⟨fun M E hM hlen hcount => ?_, ?_, by decide⟩
  · obtain ⟨p, d, q, hbits, hd⟩ := exists_eq_two_bits hcount
    rw [length_messageBits] at hd
    exact nearbyTwoBitErrorsAreDetected M E p d q hlen hbits (by omega)
  · rw [detects_iff rfl, not_not]
    exact (crc8_replicate_zero_append 4 _).trans (crc8_withCrc [0x01])

/-! ### The host's checks (R62, R77) -/

/-- Settles O55: the residue is zero exactly for the CRC byte of the message. -/
theorem hostChecksAgree : Obligations.HostChecksAgree := by
  intro M received s hs
  rw [State.crcOut_eq] at hs
  have hresidue : decide (step8 (crc8 M) received = 0x00) = decide (received = crc8 M) :=
    decide_eq_decide.mpr ((step8_eq_zero_iff _ _).trans eq_comm)
  refine ⟨_, decide (received = crc8 M), exec_update_of_crc hs received, ?_, ?_, ?_, rfl⟩
  · rw [State.zero_of_crcOut (State.crcOut_eq _), hresidue]
  · rw [mismatchByZero, ← decide_not, decide_eq_true_iff]
  · rw [mismatchByZero, mismatchByCompare, bne, beq_eq_decide, decide_eq_decide.mpr eq_comm]

theorem step8_left_injective (b : Byte) : Function.Injective (step8 · b) := by
  intro c d h
  have hzero : step8 0x00 (c ^^^ b) = step8 0x00 (d ^^^ b) := by
    rwa [← step8_eq_of_xor, ← step8_eq_of_xor]
  exact (BitVec.xor_left_inj b).mp (step8_zero_injective hzero)

/-- Absorbing a message keeps different register values different. -/
theorem absorbAll_injective (M : Message) : Function.Injective (absorbAll · M) := by
  induction M with
  | nil => exact Function.injective_id
  | cons b M ih => exact ih.comp (step8_left_injective b)

/-- A frame's CRC is left alone by the insertion of a byte exactly when the register is that byte's fixed
point there. -/
theorem crc8_insert_eq_iff (M N : Message) (b : Byte) :
    crc8 (M ++ N) = crc8 (M ++ b :: N) ↔ crc8 M = step8 (crc8 M) b := by
  rw [crc8_append, crc8_append, absorbAll_cons]
  exact (absorbAll_injective N).eq_iff

/-- A byte of odd weight has no fixed point: absorbing it changes the parity of the register. -/
theorem step8_ne_self {b : Byte} (h : (byteBits b).count true % 2 = 1) (c : Byte) :
    c ≠ step8 c b := by
  intro heq
  have hparity := parity_foldl c (byteBits b)
  rw [← step8_eq_foldl, ← heq, left_eq_add, ZMod.natCast_eq_zero_iff_even, Nat.even_iff] at hparity
  omega

set_option maxRecDepth 4000 in
/-- Settles O56: the read frame inserts 0x43, of odd weight, at the default address; at address 1 it inserts
0x03, which the register value 0x7D absorbs without a change. -/
theorem readCrcAgainstWriteCrc : Obligations.ReadCrcAgainstWriteCrc := by
  refine ⟨fun reg low high => ?_, 0x70, fun low high => ?_⟩
  · exact mt (crc8_insert_eq_iff [writeAddressByte Config.defaultAddr, reg] [low, high] _).mp
      (step8_ne_self (by decide) _)
  · have hcrc : crc8 [writeAddressByte 1, 0x70] = 0x7D := by decide
    refine (crc8_insert_eq_iff [writeAddressByte 1, 0x70] [low, high] _).mpr ?_
    rw [hcrc]
    decide

end Sys2Proof.Machine
end
